-- ==== Sys2Proof/Word.lean ====
section
/-! DEFINITION. The word and byte types of gomu CORE (00_scope.md R6: XLEN = 32, instruction buffer of 4 bytes). -/

namespace Sys2Proof

/-- The width of every storage cell, of the PC and of the instruction word (R6, R22). Arithmetic on it is modulo 2^32 (R7). -/
abbrev Word := BitVec 32

/-- One byte lane of the instruction buffer (R51). -/
abbrev Byte := BitVec 8

end Sys2Proof
end

