-- ==== Sys2Proof/Machine/Modes.lean ====
section
/-! DEFINITION. The names the register file is organised by: CPU modes, instruction modes, banks, slots and cells
(10_state.md R21, R23, R24, R26, R28). -/

namespace Sys2Proof.Machine

/-- The seven CPU modes (R26). They are abstract names: the spec gives them no numeric encoding (D22). -/
inductive CpuMode where
  | usr | sys | fiq | svc | abt | irq | und
  deriving DecidableEq, Repr, Inhabited

/-- The two instruction modes (R28). -/
inductive InstructionMode where
  | arm | thumb
  deriving DecidableEq, Repr, Inhabited

/-- The six register banks (R23, R24): `su` is the System/User bank. -/
inductive Bank where
  | su | fiq | svc | abt | irq | und
  deriving DecidableEq, Repr

/-- The slot names a bank can have (R23). Which bank has which slot is `Bank.valid`. -/
inductive Slot where
  | r0 | r1 | r2 | r3 | r4 | r5 | r6 | r7 | r8 | r9 | r10 | r11 | r12 | r13 | r14 | r15
  | cpsr | spsr
  deriving DecidableEq, Repr

/-- `cell(<bank>, <slot>)` of R8 and R21. -/
structure Cell where
  bank : Bank
  slot : Slot
  deriving DecidableEq, Repr

/-- `bankOf(m)`: the bank that owns a mode's private registers (R24). -/
def bankOf : CpuMode → Bank
  | .usr => .su
  | .sys => .su
  | .fiq => .fiq
  | .svc => .svc
  | .abt => .abt
  | .irq => .irq
  | .und => .und

/-- The valid slot set of each bank (R23): 17 slots in SU, 8 in FIQ, 3 in each of SVC, ABT, IRQ, UND. -/
def Bank.valid : Bank → Slot → Bool
  | .su, .spsr => false
  | .su, _ => true
  | .fiq, .r8 | .fiq, .r9 | .fiq, .r10 | .fiq, .r11 | .fiq, .r12 => true
  | .fiq, .r13 | .fiq, .r14 | .fiq, .spsr => true
  | .fiq, _ => false
  | _, .r13 | _, .r14 | _, .spsr => true
  | _, _ => false

/-- A cell that exists: its slot is in its bank's valid set (R21, R23). -/
def Cell.valid (c : Cell) : Bool := c.bank.valid c.slot

/-- The slot `r<n>` of a register number (R102): none from 16 upwards. -/
def Slot.ofRegNum : Nat → Option Slot
  | 0 => some .r0
  | 1 => some .r1
  | 2 => some .r2
  | 3 => some .r3
  | 4 => some .r4
  | 5 => some .r5
  | 6 => some .r6
  | 7 => some .r7
  | 8 => some .r8
  | 9 => some .r9
  | 10 => some .r10
  | 11 => some .r11
  | 12 => some .r12
  | 13 => some .r13
  | 14 => some .r14
  | 15 => some .r15
  | _ => none

/-- The program counter, one cell for all modes (R29). -/
def pcCell : Cell := ⟨.su, .r15⟩

/-- The CPSR, one cell for all modes (R30, R119). -/
def cpsrCell : Cell := ⟨.su, .cpsr⟩

/-- The link register of a mode (R25, R146). -/
def linkCell (m : CpuMode) : Cell := ⟨bankOf m, .r14⟩

/-- The saved status word of a mode's bank (R31, R119). The cell does not exist for USR and SYS. -/
def spsrCell (m : CpuMode) : Cell := ⟨bankOf m, .spsr⟩

/-- `resolve(m, n)`: the mode-dependent multiplexer from a logical register number to its cell (R103); `none` is `invalid`. -/
def resolve (m : CpuMode) (n : Nat) : Option Cell :=
  if n ≤ 7 ∨ n = 15 then (Slot.ofRegNum n).map (Cell.mk .su)
  else if 8 ≤ n ∧ n ≤ 12 then (Slot.ofRegNum n).map (Cell.mk (if m = .fiq then .fiq else .su))
  else if n = 13 ∨ n = 14 then (Slot.ofRegNum n).map (Cell.mk (bankOf m))
  else none

end Sys2Proof.Machine
end

