-- ==== Sys2Proof/Machine/Transaction.lean ====
section
/-! DEFINITION. The port transactions a driver can issue and what the block answers (40_register_access.md R100, R120). -/

namespace Sys2Proof.Machine

/-- The transaction list of R100, each with its arguments. Register numbers are natural numbers (R102, D9, log 13); an instruction
buffer is a list of bytes, first byte of the buffer first, refused unless it holds exactly four (R52, D11, log 14). -/
inductive Transaction where
  /-- R200 -/
  | reset (usingBIOS : Bool)
  /-- R106 -/
  | getReg (n : Nat)
  /-- R107 -/
  | setReg (n : Nat) (v : Word)
  /-- R104 -/
  | rfGet (m : CpuMode) (n : Nat)
  /-- R105 -/
  | rfSet (m : CpuMode) (n : Nat) (v : Word)
  /-- R109 -/
  | getCpsr
  /-- R110 -/
  | setCpsr (v : Word)
  /-- R111 -/
  | getSpsr
  /-- R112 -/
  | setSpsr (v : Word)
  /-- R113 -/
  | setMode (m : CpuMode)
  /-- R114 -/
  | getMode
  /-- R115 -/
  | setImode (i : InstructionMode)
  /-- R116 -/
  | getImode
  /-- R140: entry point of B and BL -/
  | branch (buffer : List Byte)
  /-- R160: entry point of BX -/
  | bx (buffer : List Byte)
  deriving DecidableEq, Repr

/-- The value a transaction returns: nothing, `rdata`, `mode_out` or `imode_out` of R120. -/
inductive PortResult where
  | none
  | word (v : Word)
  | mode (m : CpuMode)
  | imode (i : InstructionMode)
  deriving DecidableEq, Repr

/-- The outputs of one transaction: its result and the `err` bit, which is 0 in every transaction that does not raise
InvalidRegisterAccess (R120, R181). -/
structure PortOut where
  result : PortResult
  err    : Bool
  deriving DecidableEq, Repr

/-- The outputs of a transaction that returns nothing and raises nothing. -/
def PortOut.quiet : PortOut := ⟨.none, false⟩

end Sys2Proof.Machine
end

