-- ==== Sys2Proof/Syntax.lean ====
section
/-! DEFINITION. The instruction set: B, BL and BX, the three rows of opcode_table.json (30_encoding.md R78). -/

namespace Sys2Proof

/-- One constructor per row of the opcode table. The operand of B and BL is the raw 24-bit offset field `f` (R72, R81); the operands
of BX are the numbers `operation` and `sourceRegister` of R73, R77 and R161, whose ranges are `Instr.WellFormed`. -/
inductive Instr where
  | b (f : BitVec 24)
  | bl (f : BitVec 24)
  | bx (operation : Nat) (sourceRegister : Nat)
  deriving DecidableEq, Repr

end Sys2Proof
end

