-- ==== Sys2Proof/WellFormed.lean ====
section
/-! DEFINITION. Which instructions the encoding admits (30_encoding.md R73, 42_branch_exchange.md R161), and which transactions
keep the driver's side of the contract (20_memory.md R52, 70_reset_and_hazards.md R216). -/

namespace Sys2Proof

/-- The operands are ones a word can carry: `operation` is 0 or 1 and `sourceRegister` is 0 to 15 (R161); every 24-bit field is an
offset (R79). -/
def Instr.wf : Instr → Bool
  | .b _ => true
  | .bl _ => true
  | .bx operation sourceRegister => decide (operation < 2) && decide (sourceRegister < 16)

/-- `Instr.wf` as a proposition. -/
abbrev Instr.WellFormed (i : Instr) : Prop := i.wf = true

/-- The driver's contract on one transaction: exactly four bytes with each branch transaction (R52, R216); nothing else is asked
(any register number may be presented, R102). -/
def Machine.Transaction.wf : Machine.Transaction → Bool
  | .branch buffer => decide (buffer.length = 4)
  | .bx buffer => decide (buffer.length = 4)
  | _ => true

end Sys2Proof
end

