-- ==== Sys2Proof/Decode.lean ====
section
/-! DEFINITION. The InstructionDecoder: word assembly, field extraction, the two entry points, and the encoder written from the same
tables (20_memory.md R51, R52; 30_encoding.md R70 to R82). Pure functions; no state is consulted, `imode` included (R70). -/

namespace Sys2Proof

/-- The block's two instruction entry points (R71). The driver chooses; the block never derives the choice from the word. -/
inductive EntryPoint where
  | branch
  | bx
  deriving DecidableEq, Repr

/-- Why a buffer is not decoded: it does not hold exactly four bytes (R52, D11). -/
inductive DecodeError where
  | badLength (found : Nat)
  deriving DecidableEq, Repr

/-- `decode(b0, b1, b2, b3)` of R51: little-endian, `b0` (the first byte of the buffer) is bits 7:0. -/
def wordOfBytes (b0 b1 b2 b3 : Byte) : Word :=
  b3 ++ b2 ++ b1 ++ b0

/-- The four bytes of a word in buffer order, the inverse of `wordOfBytes` (R51). -/
def bytesOfWord (w : Word) : List Byte :=
  [w.extractLsb' 0 8, w.extractLsb' 8 8, w.extractLsb' 16 8, w.extractLsb' 24 8]

/-- `f = word[23:0]` (R74). -/
def fieldOffset (w : Word) : BitVec 24 := w.extractLsb' 0 24

/-- `opcode = word[24]` (R74): 0 selects B, 1 selects BL (R72). -/
def fieldOpcode (w : Word) : Bool := w.getLsbD 24

/-- `sourceRegister = word[3:0]` (R74, R77). -/
def fieldSourceRegister (w : Word) : Nat := (w.extractLsb' 0 4).toNat

/-- `operation = word[4]` (R74, R77). -/
def fieldOperation (w : Word) : Nat := (w.extractLsb' 4 1).toNat

/-- What a word means at each entry point (R78, R79): BRANCH looks at bit 24 and bits 23:0, BX at bits 4 and 3:0; every word is
accepted and no other bit, the condition field included, is examined (D12). -/
def decodeWord (e : EntryPoint) (w : Word) : Instr :=
  match e with
  | .branch => if fieldOpcode w then .bl (fieldOffset w) else .b (fieldOffset w)
  | .bx => .bx (fieldOperation w) (fieldSourceRegister w)

/-- The decoder on any byte list: a buffer that is not four bytes long is rejected by name and never padded (R52). -/
def decode (e : EntryPoint) (buffer : List Byte) : Except DecodeError Instr :=
  match buffer with
  | [b0, b1, b2, b3] => .ok (decodeWord e (wordOfBytes b0 b1 b2 b3))
  | _ => .error (.badLength buffer.length)

/-- The entry point an instruction is presented to (R78). -/
def entryPoint : Instr → EntryPoint
  | .b _ => .branch
  | .bl _ => .branch
  | .bx _ _ => .bx

/-- The word R81 builds: 0xEA000000 + f, 0xEB000000 + f, 0xE12FFF10 + n. The bits the block does not examine are the ARM "always"
patterns of R80, and R81 writes BX with `operation` 1; with `operation` 0 the model builds 0xE12FFF00 + n (DESIGN CHOICE, log 23). -/
def encode : Instr → Word
  | .b f => 0xEA000000 + f.setWidth 32
  | .bl f => 0xEB000000 + f.setWidth 32
  | .bx operation sourceRegister =>
    0xE12FFF00 + 16 * BitVec.ofNat 32 operation + BitVec.ofNat 32 sourceRegister

/-- The encoded instruction as the driver's buffer (R51). -/
def encodeBytes (i : Instr) : List Byte := bytesOfWord (encode i)

/-- The entry point a driver picks for a bare word by the ARM patterns of R80: BX where bits 27:4 are the BX pattern, else BRANCH.
Not the block's behaviour: R80 is general knowledge offered to a driver (PRESUMED, log 4). Used only where a word comes without an
entry point: `decodeTableWord` and `withFetchWord`. -/
def driverEntryPoint (w : Word) : EntryPoint :=
  if w &&& 0x0FFFFFF0 = 0x012FFF10 then .bx else .branch

/-- The buffer of an instruction given as a number of `nbits` bits, bit 0 the least significant of the first byte: little-endian
(R51), at least the four bytes every instruction has (R70), the bits above `nbits` zero. -/
def tableBuffer (nbits w : Nat) : List Byte :=
  (List.range (max 4 ((nbits + 7) / 8))).map fun k => BitVec.ofNat 8 (w % 2 ^ nbits / 2 ^ (8 * k))

/-- The entry point for an opcode-table word (log 4). -/
def tableEntryPoint (nbits w : Nat) : EntryPoint :=
  driverEntryPoint (BitVec.ofNat 32 (w % 2 ^ nbits))

/-- The instruction the decoder reads from an opcode-table word; `none` where it rejects the buffer. -/
def decodeTableWord (nbits w : Nat) : Option Instr :=
  match decode (tableEntryPoint nbits w) (tableBuffer nbits w) with
  | .ok i => some i
  | .error _ => none

end Sys2Proof
end

