-- ==== Sys2Proof/Machine/Operands.lean ====
section
/-! DEFINITION. Operand forms: the sign adjustment of the branch offset and the target and link arithmetic
(30_encoding.md R75, 41_branch.md R141 to R145). The operands of BX are used as they stand (R77). -/

namespace Sys2Proof.Machine

/-- `off` (R75): the field itself when bit 23 is clear, the negation of the unsigned field in 32 bits when it is set. Not sign
extension (R76, conflict C1). -/
def signedOffset (f : BitVec 24) : Word :=
  if f.getLsbD 23 then 0 - f.setWidth 32 else f.setWidth 32

/-- `newpc = (old + 8 + 4 * off) mod 2^32` (R142). The 8 is a constant of the branch rule (R213). -/
def branchTarget (old : Word) (f : BitVec 24) : Word :=
  old + 8 + 4 * signedOffset f

/-- The link value: the updated r15 plus 4 (R143, conflict C3). -/
def linkValue (updatedPc : Word) : Word := updatedPc + 4

end Sys2Proof.Machine
end

