-- ==== Sys2Proof/Machine/Banks.lean ====
section
/-! DEFINITION. The 37 storage cells in their six banks, and the read and write of one cell (10_state.md R20 to R23). -/

namespace Sys2Proof.Machine

/-- The System/User bank: r0 to r15 and CPSR, 17 cells (R23). -/
structure SuBank where
  r0 : Word
  r1 : Word
  r2 : Word
  r3 : Word
  r4 : Word
  r5 : Word
  r6 : Word
  r7 : Word
  r8 : Word
  r9 : Word
  r10 : Word
  r11 : Word
  r12 : Word
  r13 : Word
  r14 : Word
  r15 : Word
  cpsr : Word
  deriving DecidableEq, Repr, Inhabited

/-- The FIQ bank: private r8 to r14 and SPSR, 8 cells (R23). -/
structure FiqBank where
  r8 : Word
  r9 : Word
  r10 : Word
  r11 : Word
  r12 : Word
  r13 : Word
  r14 : Word
  spsr : Word
  deriving DecidableEq, Repr, Inhabited

/-- The shape of the Supervisor, Abort, Interrupt and Undefined banks: r13, r14 and SPSR, 3 cells each (R23). -/
structure PrivateBank where
  r13 : Word
  r14 : Word
  spsr : Word
  deriving DecidableEq, Repr, Inhabited

/-- The register file: the six RegisterBank objects, 37 cells in all (R20, R21, R24). -/
structure RegFile where
  su  : SuBank
  fiq : FiqBank
  svc : PrivateBank
  abt : PrivateBank
  irq : PrivateBank
  und : PrivateBank
  deriving DecidableEq, Repr, Inhabited

/-- The word a slot of the bank holds; 0 where the bank has no such slot (R101: the value of an invalid read). -/
def SuBank.read (b : SuBank) : Slot → Word
  | .r0 => b.r0
  | .r1 => b.r1
  | .r2 => b.r2
  | .r3 => b.r3
  | .r4 => b.r4
  | .r5 => b.r5
  | .r6 => b.r6
  | .r7 => b.r7
  | .r8 => b.r8
  | .r9 => b.r9
  | .r10 => b.r10
  | .r11 => b.r11
  | .r12 => b.r12
  | .r13 => b.r13
  | .r14 => b.r14
  | .r15 => b.r15
  | .cpsr => b.cpsr
  | .spsr => 0

/-- The bank with one slot rewritten; the bank as it was where it has no such slot (R101). -/
def SuBank.write (b : SuBank) (k : Slot) (v : Word) : SuBank :=
  match k with
  | .r0 => { b with r0 := v }
  | .r1 => { b with r1 := v }
  | .r2 => { b with r2 := v }
  | .r3 => { b with r3 := v }
  | .r4 => { b with r4 := v }
  | .r5 => { b with r5 := v }
  | .r6 => { b with r6 := v }
  | .r7 => { b with r7 := v }
  | .r8 => { b with r8 := v }
  | .r9 => { b with r9 := v }
  | .r10 => { b with r10 := v }
  | .r11 => { b with r11 := v }
  | .r12 => { b with r12 := v }
  | .r13 => { b with r13 := v }
  | .r14 => { b with r14 := v }
  | .r15 => { b with r15 := v }
  | .cpsr => { b with cpsr := v }
  | .spsr => b

/-- The word a slot of the bank holds; 0 where the bank has no such slot (R101: the value of an invalid read). -/
def FiqBank.read (b : FiqBank) : Slot → Word
  | .r8 => b.r8
  | .r9 => b.r9
  | .r10 => b.r10
  | .r11 => b.r11
  | .r12 => b.r12
  | .r13 => b.r13
  | .r14 => b.r14
  | .spsr => b.spsr
  | _ => 0

/-- The bank with one slot rewritten; the bank as it was where it has no such slot (R101). -/
def FiqBank.write (b : FiqBank) (k : Slot) (v : Word) : FiqBank :=
  match k with
  | .r8 => { b with r8 := v }
  | .r9 => { b with r9 := v }
  | .r10 => { b with r10 := v }
  | .r11 => { b with r11 := v }
  | .r12 => { b with r12 := v }
  | .r13 => { b with r13 := v }
  | .r14 => { b with r14 := v }
  | .spsr => { b with spsr := v }
  | _ => b

/-- The word a slot of the bank holds; 0 where the bank has no such slot (R101: the value of an invalid read). -/
def PrivateBank.read (b : PrivateBank) : Slot → Word
  | .r13 => b.r13
  | .r14 => b.r14
  | .spsr => b.spsr
  | _ => 0

/-- The bank with one slot rewritten; the bank as it was where it has no such slot (R101). -/
def PrivateBank.write (b : PrivateBank) (k : Slot) (v : Word) : PrivateBank :=
  match k with
  | .r13 => { b with r13 := v }
  | .r14 => { b with r14 := v }
  | .spsr => { b with spsr := v }
  | _ => b

/-- The word a cell holds (R22); 0 for a cell that does not exist. -/
def RegFile.read (rf : RegFile) (c : Cell) : Word :=
  match c.bank with
  | .su => rf.su.read c.slot
  | .fiq => rf.fiq.read c.slot
  | .svc => rf.svc.read c.slot
  | .abt => rf.abt.read c.slot
  | .irq => rf.irq.read c.slot
  | .und => rf.und.read c.slot

/-- The register file with one cell rewritten, all 32 bits as given (R22); unchanged for a cell that does not exist. -/
def RegFile.write (rf : RegFile) (c : Cell) (v : Word) : RegFile :=
  match c.bank with
  | .su => { rf with su := rf.su.write c.slot v }
  | .fiq => { rf with fiq := rf.fiq.write c.slot v }
  | .svc => { rf with svc := rf.svc.write c.slot v }
  | .abt => { rf with abt := rf.abt.write c.slot v }
  | .irq => { rf with irq := rf.irq.write c.slot v }
  | .und => { rf with und := rf.und.write c.slot v }

end Sys2Proof.Machine
end

