-- ==== Sys2Proof/Config.lean ====
section
/-! DEFINITION. What an implementation fixes and the values the spec leaves open (00_scope.md R6, 92_eei_decisions.md).
XLEN = 32 is `Word`; REGNUM_WIDTH is a natural number (D9); ERR_POLICY is the default policy of R181 (D8), in Machine/Ops.lean;
OFFSET_INT_WIDTH is 32 (D13); MODE_ENC is none (D22). -/

namespace Sys2Proof

open Machine

/-- RESET_MODE of R6 and R203: the CPU mode after Reset. The source does not say; SYS and SVC are the spec's decision D4 (log 6). -/
def Config.resetMode (usingBIOS : Bool) : CpuMode :=
  if usingBIOS then .svc else .sys

/-- RESET_IMODE of R6 and R203: the instruction mode after Reset. The source does not say; ARM is the spec's decision D5 (log 7). -/
def Config.resetImode (_usingBIOS : Bool) : InstructionMode := .arm

/-- Which of the two configurations `State.reset` is: the direct boot (DESIGN CHOICE, log 5). -/
def Config.usingBIOS : Bool := false

/-- POWER_ON_STATE of R6, R35, R205: the 37 cells before the first Reset. Free: nothing constrains it (D10, log 22). -/
opaque Config.powerOnCells : RegFile

/-- The CPU mode before the first Reset. Free (D10, log 22). -/
opaque Config.powerOnMode : CpuMode

/-- The instruction mode before the first Reset. Free (D10, log 22). -/
opaque Config.powerOnImode : InstructionMode

end Sys2Proof
end

