-- ==== Sys2Proof/Machine/ResetValues.lean ====
section
/-! DEFINITION. The words Reset writes to the 37 cells, the table of 70_reset_and_hazards.md R201 (10_state.md R21). -/

namespace Sys2Proof.Machine

/-- R201, column `usingBIOS=false`: direct boot. The zero of the FIQ bank's private r8 to r12 is the spec's decision D25 (log 8). -/
def RegFile.directBoot : RegFile where
  su :=
    { r0 := 0, r1 := 0, r2 := 0, r3 := 0, r4 := 0, r5 := 0, r6 := 0, r7 := 0
      r8 := 0, r9 := 0, r10 := 0, r11 := 0, r12 := 0
      r13 := 0x03007F00, r14 := 0, r15 := 0x08000000, cpsr := 0x0000005F }
  fiq := { r8 := 0, r9 := 0, r10 := 0, r11 := 0, r12 := 0, r13 := 0x03007F00, r14 := 0, spsr := 0 }
  svc := { r13 := 0x03007FE0, r14 := 0, spsr := 0 }
  abt := { r13 := 0x03007F00, r14 := 0, spsr := 0 }
  irq := { r13 := 0x03007FA0, r14 := 0, spsr := 0 }
  und := { r13 := 0x03007F00, r14 := 0, spsr := 0 }

/-- R201, column `usingBIOS=true`: BIOS boot. -/
def RegFile.biosBoot : RegFile where
  su :=
    { r0 := 0, r1 := 0, r2 := 0, r3 := 0, r4 := 0, r5 := 0, r6 := 0, r7 := 0
      r8 := 0, r9 := 0, r10 := 0, r11 := 0, r12 := 0
      r13 := 0, r14 := 0, r15 := 0, cpsr := 0x000000D3 }
  fiq := { r8 := 0, r9 := 0, r10 := 0, r11 := 0, r12 := 0, r13 := 0, r14 := 0, spsr := 0 }
  svc := { r13 := 0, r14 := 0, spsr := 0 }
  abt := { r13 := 0, r14 := 0, spsr := 0 }
  irq := { r13 := 0, r14 := 0, spsr := 0 }
  und := { r13 := 0, r14 := 0, spsr := 0 }

/-- The cells after `RESET(usingBIOS)` (R201). -/
def RegFile.afterReset (usingBIOS : Bool) : RegFile :=
  if usingBIOS then .biosBoot else .directBoot

end Sys2Proof.Machine
end

