-- ==== Sys2Proof/Machine/State.lean ====
section
/-! DEFINITION. The state of the block, the reasons a step can stop, and the state after reset (10_state.md R20). -/

namespace Sys2Proof.Machine

/-- The whole state of the block is the first three fields (R20). `pending` and `out` are the model's own: the driver's inputs and
the block's outputs, which the spec does not call state (R34; log 1, 2). -/
structure State where
  /-- The 37 cells (R21). -/
  rf      : RegFile
  /-- The CPU mode (R26). -/
  mode    : CpuMode
  /-- The instruction mode (R28). -/
  imode   : InstructionMode
  /-- The transactions the driver will issue, the next one first (R9, R59, R216). -/
  pending : List Transaction
  /-- The outputs of the transaction that ran last (R120, R181); every transaction overwrites them. -/
  out     : PortOut
  deriving DecidableEq, Repr

/-- The reasons the machine stops. -/
inductive Fault where
  /-- Raised by `runNext` when the driver presents no transaction: "the block never starts a step on its own" (R9). Safe. -/
  | noTransaction
  deriving DecidableEq, Repr

/-- The reasons a step has no meaning. -/
inductive Refusal where
  /-- Raised by `exec` for an instruction without a meaning; no arm does. Safe. -/
  | notModelled (mnemonic : String)
  /-- Raised by `runInstruction` for an instruction buffer that does not hold exactly four bytes: "must refuse (give no step to) a
  list whose length is not 4" (R52). Safe. -/
  | bufferLength (found : Nat)
  deriving DecidableEq, Repr

/-- The machine right after `RESET(Config.usingBIOS)`, the direct boot (R201, R203; log 5), with no transaction presented yet
(log 1) and the outputs of a transaction that returns nothing (log 2). -/
def State.reset : State where
  rf := RegFile.afterReset Config.usingBIOS
  mode := Config.resetMode Config.usingBIOS
  imode := Config.resetImode Config.usingBIOS
  pending := []
  out := .quiet

end Sys2Proof.Machine
end

