-- ==== Sys2Proof/Machine/Ops.lean ====
section
/-! DEFINITION. The shared operations over the register state: RegisterBank, RegisterFile, the CPU's mode-aware interface, and the one
error the block raises (40_register_access.md R101 to R107, 60_exceptions.md R181). The block takes no trap and returns from none
(R186, R188), so raising InvalidRegisterAccess is the whole of its exception machinery. -/

namespace Sys2Proof.Machine

/-- What a read answers: the value and `err`. -/
structure ReadResult where
  value : Word
  err   : Bool
  deriving DecidableEq, Repr

/-- What a write answers: the state after it and `err`. -/
structure WriteResult where
  state : State
  err   : Bool
  deriving DecidableEq, Repr

/-- `raise InvalidRegisterAccess(read, ...)`: "a read returns 0x00000000", `err` is 1 (R181). -/
def invalidRead : ReadResult := ⟨0, true⟩

/-- `raise InvalidRegisterAccess(write, ...)`: "a write stores nothing", `err` is 1, nothing is saved and control goes nowhere
(R181, R186). -/
def invalidWrite (s : State) : WriteResult := ⟨s, true⟩

/-- The state with one cell rewritten. -/
def State.setCell (s : State) (c : Cell) (v : Word) : State := { s with rf := s.rf.write c v }

/-- `bank_get(B, s)` (R101). -/
def bankGet (s : State) (c : Cell) : ReadResult :=
  if c.valid then ⟨s.rf.read c, false⟩ else invalidRead

/-- `bank_set(B, s, v)` (R101). -/
def bankSet (s : State) (c : Cell) (v : Word) : WriteResult :=
  if c.valid then ⟨s.setCell c v, false⟩ else invalidWrite s

/-- `RF_get(m, n)` (R104). -/
def rfGet (s : State) (m : CpuMode) (n : Nat) : ReadResult :=
  match resolve m n with
  | none => invalidRead
  | some c => bankGet s c

/-- `RF_set(m, n, v)` (R105). -/
def rfSet (s : State) (m : CpuMode) (n : Nat) (v : Word) : WriteResult :=
  match resolve m n with
  | none => invalidWrite s
  | some c => bankSet s c v

/-- `GETREG(n)`: the RegisterFile read under the current mode (R106). -/
def getReg (s : State) (n : Nat) : ReadResult := rfGet s s.mode n

/-- `SETREG(n, v)`: the RegisterFile write under the current mode (R107). -/
def setReg (s : State) (n : Nat) (v : Word) : WriteResult := rfSet s s.mode n v

/-- `x[n]` (R8). -/
def State.x (s : State) (n : Nat) : Word := (getReg s n).value

/-- `x[n] <- v` (R8). -/
def State.setX (s : State) (n : Nat) (v : Word) : State := (setReg s n v).state

/-- The outputs of a transaction: its result and `err`, replacing those of the transaction before (R34, R181). -/
def State.answer (s : State) (result : PortResult) (err : Bool) : State := { s with out := ⟨result, err⟩ }

/-- A transaction that returns a read result: `rdata` and `err` (R120). -/
def State.answerRead (s : State) (r : ReadResult) : State := s.answer (.word r.value) r.err

/-- A transaction that returns only `err` (R100). -/
def WriteResult.answer (w : WriteResult) : State := w.state.answer .none w.err

/-- The word the program counter holds, nothing added (R29). -/
def State.pc (s : State) : Word := s.rf.read pcCell

end Sys2Proof.Machine
end

