-- ==== Sys2Proof/Machine/Branch.lean ====
section
/-! DEFINITION. The meanings of B and BL (41_branch.md R140 to R149). They write no status bit, raise nothing and return nothing
(R147); `imode` is not consulted (R70). -/

namespace Sys2Proof.Machine

/-- B (R142): r15 becomes the target, through the mode-aware interface (R146). -/
def execB (f : BitVec 24) (s : State) : Host.Outcome State Fault Refusal :=
  let newpc := branchTarget (s.x 15) f
  .next ((s.setX 15 newpc).answer .none false)

/-- BL (R143): r15 is written first, then r14 of the current mode gets the updated r15 plus 4 (R144, R210). -/
def execBl (f : BitVec 24) (s : State) : Host.Outcome State Fault Refusal :=
  let newpc := branchTarget (s.x 15) f
  let jumped := s.setX 15 newpc
  .next ((jumped.setX 14 (linkValue (jumped.x 15))).answer .none false)

end Sys2Proof.Machine
end

