-- ==== Sys2Proof/Machine/BranchExchange.lean ====
section
/-! DEFINITION. The meaning of BX (42_branch_exchange.md R160 to R167). -/

namespace Sys2Proof.Machine

/-- BX (R162): the source register is read under the current mode before r15 is written (R211), all 32 bits go to r15 with nothing
masked, and neither `mode` nor `imode` changes (R164). The comparison with 3 is the source's own and is kept (R163, D16): the decoder
extracts one bit, so a decoded instruction never takes it. `err` is that of the source read, which raises only for a register number
no word can carry (R167, log 19). -/
def execBx (operation sourceRegister : Nat) (s : State) : Host.Outcome State Fault Refusal :=
  let source := getReg s sourceRegister
  let jumped := s.setX 15 source.value
  let linked := if operation = 3 then jumped.setX 14 (linkValue (jumped.x 15)) else jumped
  .next (linked.answer .none source.err)

end Sys2Proof.Machine
end

