-- ==== Sys2Proof/Machine/Dispatch.lean ====
section
/-! DEFINITION. The dispatch from an instruction to its meaning, one arm per row of opcode_table.json. -/

namespace Sys2Proof.Machine

def exec (i : Instr) (s : State) : Host.Outcome State Fault Refusal :=
  match i with
  | .b f => Sys2Proof.Machine.execB f s
  | .bl f => Sys2Proof.Machine.execBl f s
  | .bx operation sourceRegister => Sys2Proof.Machine.execBx operation sourceRegister s

end Sys2Proof.Machine
end

