-- ==== Sys2Proof/Machine/ModeAccess.lean ====
section
/-! DEFINITION. The mode transactions SETMODE, GETMODE, SETIMODE, GETIMODE (40_register_access.md R113 to R116). No privilege is
checked (60_exceptions.md R191). -/

namespace Sys2Proof.Machine

/-- `SETMODE(m)`: `mode` and nothing else; no cell is copied (R113, R212, D2). -/
def runSetMode (m : CpuMode) (s : State) : State := { s with mode := m }.answer .none false

/-- `GETMODE -> m` (R114). -/
def runGetMode (s : State) : State := s.answer (.mode s.mode) false

/-- `SETIMODE(i)`: `imode` and nothing else (R115, D3). -/
def runSetImode (i : InstructionMode) (s : State) : State := { s with imode := i }.answer .none false

/-- `GETIMODE -> i` (R116). -/
def runGetImode (s : State) : State := s.answer (.imode s.imode) false

end Sys2Proof.Machine
end

