-- ==== Sys2Proof/Machine/RegisterAccess.lean ====
section
/-! DEFINITION. The register transactions RF_GET, RF_SET, GETREG, SETREG (40_register_access.md R104 to R107). -/

namespace Sys2Proof.Machine

/-- `RF_GET(m, n) -> (v, err)` (R104). -/
def runRfGet (m : CpuMode) (n : Nat) (s : State) : State := s.answerRead (rfGet s m n)

/-- `RF_SET(m, n, v) -> err` (R105). -/
def runRfSet (m : CpuMode) (n : Nat) (v : Word) (s : State) : State := (rfSet s m n v).answer

/-- `GETREG(n) -> (v, err)` (R106). -/
def runGetReg (n : Nat) (s : State) : State := s.answerRead (getReg s n)

/-- `SETREG(n, v) -> err` (R107). -/
def runSetReg (n : Nat) (v : Word) (s : State) : State := (setReg s n v).answer

end Sys2Proof.Machine
end

