-- ==== Sys2Proof/Machine/Reset.lean ====
section
/-! DEFINITION. The RESET transaction and the power-on state (70_reset_and_hazards.md R200 to R205). -/

namespace Sys2Proof.Machine

/-- `RESET(usingBIOS)` (R200, R201, R203): all 37 cells, `mode` and `imode`; nothing of the earlier state is read (R202). -/
def runReset (usingBIOS : Bool) (s : State) : State :=
  { s with
    rf := RegFile.afterReset usingBIOS
    mode := Config.resetMode usingBIOS
    imode := Config.resetImode usingBIOS }.answer .none false

/-- The state between creation and the first Reset: every cell, `mode` and `imode` unspecified (R35, R205, D10; log 22), with the
driver's transactions given. -/
def State.powerOn (pending : List Transaction) : State where
  rf := Config.powerOnCells
  mode := Config.powerOnMode
  imode := Config.powerOnImode
  pending := pending
  out := .quiet

end Sys2Proof.Machine
end

