-- ==== Sys2Proof/Machine/Flags.lean ====
section
/-! DEFINITION. The status words: the multiplexer of CPSR and SPSR (40_register_access.md R109 to R112, R119). No instruction sets or
reads a flag (10_state.md R32), so there is no flag computation; the field names at the end are R32's informative table. -/

namespace Sys2Proof.Machine

/-- `GETCPSR`: one cell whatever the mode (R109). -/
def getCpsr (s : State) : ReadResult := bankGet s cpsrCell

/-- `SETCPSR(v)`: all 32 bits as given; `mode` and `imode` do not follow (R110, D7). -/
def setCpsr (s : State) (v : Word) : WriteResult := bankSet s cpsrCell v

/-- `GETSPSR`: the current mode's SPSR; InvalidRegisterAccess under USR and SYS (R111). -/
def getSpsr (s : State) : ReadResult :=
  if s.mode = .usr ∨ s.mode = .sys then invalidRead else bankGet s (spsrCell s.mode)

/-- `SETSPSR(v)`: the current mode's SPSR; InvalidRegisterAccess under USR and SYS (R112). -/
def setSpsr (s : State) (v : Word) : WriteResult :=
  if s.mode = .usr ∨ s.mode = .sys then invalidWrite s else bankSet s (spsrCell s.mode) v

/-- The names R32 gives the fields of a status word, for reading the reset literals only: general knowledge, no rule depends on it
(PRESUMED, log 24), and no step reads it. -/
structure StatusFields where
  n : Bool
  z : Bool
  c : Bool
  v : Bool
  irqDisable : Bool
  fiqDisable : Bool
  thumb : Bool
  modeBits : BitVec 5
  deriving DecidableEq, Repr

/-- R32's table read from a status word (informative, log 24). -/
def statusFields (w : Word) : StatusFields where
  n := w.getLsbD 31
  z := w.getLsbD 30
  c := w.getLsbD 29
  v := w.getLsbD 28
  irqDisable := w.getLsbD 7
  fiqDisable := w.getLsbD 6
  thumb := w.getLsbD 5
  modeBits := w.extractLsb' 0 5

/-- R32's codes of the seven modes (informative, log 24; the mode itself has no numeric encoding, D22). -/
def armModeBits : CpuMode → BitVec 5
  | .usr => 0x10
  | .fiq => 0x11
  | .irq => 0x12
  | .svc => 0x13
  | .abt => 0x17
  | .und => 0x1B
  | .sys => 0x1F

end Sys2Proof.Machine
end

