-- ==== Sys2Proof/Machine/StatusAccess.lean ====
section
/-! DEFINITION. The status transactions GETCPSR, SETCPSR, GETSPSR, SETSPSR (40_register_access.md R109 to R112). -/

namespace Sys2Proof.Machine

/-- `GETCPSR -> v` (R109). -/
def runGetCpsr (s : State) : State := s.answerRead (getCpsr s)

/-- `SETCPSR(v)` (R110). -/
def runSetCpsr (v : Word) (s : State) : State := (setCpsr s v).answer

/-- `GETSPSR -> (v, err)` (R111). -/
def runGetSpsr (s : State) : State := s.answerRead (getSpsr s)

/-- `SETSPSR(v) -> err` (R112). -/
def runSetSpsr (v : Word) (s : State) : State := (setSpsr s v).answer

end Sys2Proof.Machine
end

