-- ==== Sys2Proof/Machine/Transact.lean ====
section
/-! DEFINITION. One transaction of the block: the rule each transaction of 40_register_access.md R100 has, and taking the next one
from the driver's queue (00_scope.md R9, 20_memory.md R59). -/

namespace Sys2Proof.Machine

/-- A branch transaction: decode the buffer at the entry point the driver chose and execute (R140, R160); a buffer that is not four
bytes gets no step (R52). -/
def runInstruction (e : EntryPoint) (buffer : List Byte) (s : State) : Host.Outcome State Fault Refusal :=
  match decode e buffer with
  | .ok i => exec i s
  | .error (.badLength found) => .refused (.bufferLength found)

/-- The effect of one transaction (R100). -/
def runTransaction (t : Transaction) (s : State) : Host.Outcome State Fault Refusal :=
  match t with
  | .reset usingBIOS => .next (runReset usingBIOS s)
  | .getReg n => .next (runGetReg n s)
  | .setReg n v => .next (runSetReg n v s)
  | .rfGet m n => .next (runRfGet m n s)
  | .rfSet m n v => .next (runRfSet m n v s)
  | .getCpsr => .next (runGetCpsr s)
  | .setCpsr v => .next (runSetCpsr v s)
  | .getSpsr => .next (runGetSpsr s)
  | .setSpsr v => .next (runSetSpsr v s)
  | .setMode m => .next (runSetMode m s)
  | .getMode => .next (runGetMode s)
  | .setImode i => .next (runSetImode i s)
  | .getImode => .next (runGetImode s)
  | .branch buffer => runInstruction .branch buffer s
  | .bx buffer => runInstruction .bx buffer s

/-- The driver's next transaction is taken from the queue and runs to its end (R59); with none presented there is no step (R9). -/
def runNext (s : State) : Host.Outcome State Fault Refusal :=
  match s.pending with
  | [] => .fault .noTransaction
  | t :: rest => runTransaction t { s with pending := rest }

/-- The branch transaction that presents a buffer at an entry point (R71). -/
def presentAt : EntryPoint → List Byte → Transaction
  | .branch, buffer => .branch buffer
  | .bx, buffer => .bx buffer

/-- The state in which the driver's next transaction presents an opcode-table word (log 4). -/
def presentTableWord (s : State) (nbits w : Nat) : State :=
  { s with pending := presentAt (tableEntryPoint nbits w) (tableBuffer nbits w) :: s.pending }

end Sys2Proof.Machine
end

