-- ==== Sys2Proof/Machine/Step.lean ====
section
/-! DEFINITION. The step: one transaction, atomically (00_scope.md R9). -/

namespace Sys2Proof.Machine

/-- One step of the block: the driver's next transaction (R9, R59). -/
def step (s : State) : Host.Outcome State Fault Refusal := runNext s

/-- The block fetches nothing (R61): the driver presents the instruction as the next transaction, at the entry point it picks for the
word (log 4). Nothing else changes. -/
def State.withFetchWord (s : State) (nbits w : Nat) : State := presentTableWord s nbits w

end Sys2Proof.Machine
end

