-- ==== Sys2Proof/Machine/Boot.lean ====
section
/-! DEFINITION. What the driver issues at boot (70_reset_and_hazards.md R206, R207). The ROM and its loader are outside the block. -/

namespace Sys2Proof.Machine

/-- The 4-byte ROM entry-point field, ROM offsets 0x000 to 0x003 (R207). -/
def romEntryField (rom : List Byte) : List Byte := rom.take 4

/-- R206 steps (2) and (3) for a direct boot: Reset, then the entry-point field handed to BRANCH to seed the first target. The source
does not spell the procedure out (N32, log 26). -/
def bootTransactions (rom : List Byte) : List Transaction :=
  [.reset false, .branch (romEntryField rom)]

end Sys2Proof.Machine
end

