-- ==== Sys2Proof/Safety.lean ====
section
/-! DEFINITION. What claims call safe, and the words claims are written in: the driver's contract (70_reset_and_hazards.md R216), the
invariant every step keeps, frames over cells, the fold of a transaction sequence (20_memory.md R59), and relations between two runs. -/

namespace Sys2Proof.Machine

/-- The driver keeps its contract for every transaction it will issue: exactly four bytes with each branch transaction (R52, R216). -/
def State.contract (s : State) : Bool := s.pending.all Transaction.wf

/-- `rdata` is "zero when `err` is set" (R120), and nothing but `rdata` is returned with `err` set. -/
def PortOut.zeroOnErr (o : PortOut) : Bool :=
  !o.err || decide (o.result = .none) || decide (o.result = .word 0)

/-- The invariant: the driver's contract holds of what is still pending, and the outputs are zero on error. -/
structure Inv (s : State) : Prop where
  contract : s.contract = true
  zeroOnErr : s.out.zeroOnErr = true

/-- `s` runs without a stop through `k` steps to `t`. -/
def RunsTo (k : Nat) (s t : State) : Prop := Sys2Proof.core.run k s = .next t

/-- Every cell that exists, outside those listed, reads in `t` as in `s`. -/
def SameCellsBut (cs : List Cell) (s t : State) : Prop :=
  ∀ c : Cell, c.valid = true → c ∉ cs → t.rf.read c = s.rf.read c

/-- The CPU mode, the instruction mode and the driver's queue are the same. -/
def SameModes (s t : State) : Prop :=
  t.mode = s.mode ∧ t.imode = s.imode ∧ t.pending = s.pending

/-- The fold of the transaction rules over a sequence (R59), stopping at the first transaction that gets no step. -/
def foldTransactions : List Transaction → State → Host.Outcome State Fault Refusal
  | [], s => .next s
  | t :: rest, s =>
    match runTransaction t s with
    | .next u => foldTransactions rest u
    | .fault r => .fault r
    | .refused r => .refused r

/-- `RF_SET(m, n, v)` and then `RF_GET(m', n')` both run, and the second answers `r`. -/
def ReadsAfterWrite (s : State) (m : CpuMode) (n : Nat) (v : Word) (m' : CpuMode) (n' : Nat) (r : ReadResult) : Prop :=
  ∃ t u, runTransaction (.rfSet m n v) s = .next t ∧ runTransaction (.rfGet m' n') t = .next u ∧
    u.out = ⟨.word r.value, r.err⟩

/-- What R117 lets each transaction of 40_register_access.md write, from `s` to `t`, the one cell named as its rule names it: the
resolved register (none from 16 upwards), CPSR, or the SPSR of the current mode (a cell USR and SYS do not have). Nothing is said of the
transactions of the other files. -/
def WritesAtMost (tr : Transaction) (s t : State) : Prop :=
  match tr with
  | .rfSet m n _ => t.mode = s.mode ∧ t.imode = s.imode ∧ SameCellsBut (resolve m n).toList s t
  | .setReg n _ => t.mode = s.mode ∧ t.imode = s.imode ∧ SameCellsBut (resolve s.mode n).toList s t
  | .setCpsr _ => t.mode = s.mode ∧ t.imode = s.imode ∧ SameCellsBut [cpsrCell] s t
  | .setSpsr _ => t.mode = s.mode ∧ t.imode = s.imode ∧ SameCellsBut [spsrCell s.mode] s t
  | .setMode _ => t.rf = s.rf ∧ t.imode = s.imode
  | .setImode _ => t.rf = s.rf ∧ t.mode = s.mode
  | .rfGet _ _ | .getReg _ | .getCpsr | .getSpsr | .getMode | .getImode =>
    t.rf = s.rf ∧ t.mode = s.mode ∧ t.imode = s.imode
  | .reset _ | .branch _ | .bx _ => True

/-- Two outcomes are of one kind: related next states, or the same stop. -/
def OutcomeRel (R : State → State → Prop) : Host.Outcome State Fault Refusal → Host.Outcome State Fault Refusal → Prop
  | .next u, .next v => R u v
  | .fault a, .fault b => a = b
  | .refused a, .refused b => a = b
  | _, _ => False

/-- Equal but for `imode`. -/
def EqualButImode (s t : State) : Prop :=
  s.rf = t.rf ∧ s.mode = t.mode ∧ s.pending = t.pending ∧ s.out = t.out

/-- Equal but for the six status words, CPSR and the SPSRs. -/
def EqualButStatus (s t : State) : Prop :=
  (∀ c : Cell, c.valid = true → c.slot ≠ .cpsr → c.slot ≠ .spsr → s.rf.read c = t.rf.read c) ∧
    s.mode = t.mode ∧ s.imode = t.imode ∧ s.pending = t.pending ∧ s.out = t.out

/-- Equal, but one may be in USR where the other is in SYS (R108). -/
def EqualUpToUserSystem (s t : State) : Prop :=
  s.rf = t.rf ∧ s.imode = t.imode ∧ s.pending = t.pending ∧ s.out = t.out ∧
    (s.mode = t.mode ∨ ((s.mode = .usr ∨ s.mode = .sys) ∧ (t.mode = .usr ∨ t.mode = .sys)))

end Sys2Proof.Machine
end

