-- ==== Sys2Proof/Certificates/Slice0/Obligations.lean ====
section
/-! DEFINITION. The statements for the provers, each from a rule of spec/. Where a statement rests on one of the spec's own decisions
D<n> (92_eei_decisions.md) or on a choice of the model, its docstring says so and its basis is 'derived'. -/

open Sys2Proof Sys2Proof.Machine

/-! ## Encoding -/

/-- R51: the buffer is little-endian; `wordOfBytes` is the sum of R51 and its four slices are the four bytes. -/
def Obligations.InstructionBufferIsLittleEndian : Prop :=
  ∀ b0 b1 b2 b3 : Byte,
    (wordOfBytes b0 b1 b2 b3).toNat = b0.toNat + b1.toNat * 2 ^ 8 + b2.toNat * 2 ^ 16 + b3.toNat * 2 ^ 24 ∧
    bytesOfWord (wordOfBytes b0 b1 b2 b3) = [b0, b1, b2, b3] ∧
    ∀ e, decode e [b0, b1, b2, b3] = .ok (decodeWord e (wordOfBytes b0 b1 b2 b3))

/-- R52 with the spec's decision D11 (log 14): four bytes are decoded, any other number is rejected by name and gets no step. -/
def Obligations.OnlyFourByteBuffersGetAStep : Prop :=
  ∀ (e : EntryPoint) (buffer : List Byte) (rest : List Transaction) (s : State),
    (buffer.length = 4 →
      (∃ i, decode e buffer = .ok i) ∧ ∃ t, step { s with pending := presentAt e buffer :: rest } = .next t) ∧
    (buffer.length ≠ 4 →
      decode e buffer = .error (.badLength buffer.length) ∧
      step { s with pending := presentAt e buffer :: rest } = .refused (.bufferLength buffer.length))

/-- R72, R73, R74: what each entry point reads from a word, and that it reads nothing else. -/
def Obligations.DecodeReadsExactlyTheFormatFields : Prop :=
  ∀ w : Word,
    (∀ f : BitVec 24, decodeWord .branch w = .b f ↔ (w >>> 24) &&& 1 = 0 ∧ f.setWidth 32 = w &&& 0x00FFFFFF) ∧
    (∀ f : BitVec 24, decodeWord .branch w = .bl f ↔ (w >>> 24) &&& 1 = 1 ∧ f.setWidth 32 = w &&& 0x00FFFFFF) ∧
    (∀ op n : Nat, decodeWord .branch w ≠ .bx op n) ∧
    (∀ op n : Nat, decodeWord .bx w = .bx op n ↔ op = ((w >>> 4) &&& 1).toNat ∧ n = (w &&& 0xF).toNat) ∧
    (∀ f : BitVec 24, decodeWord .bx w ≠ .b f ∧ decodeWord .bx w ≠ .bl f)

/-- R79, the spec's decision D12 (log 15): every word is executed at either entry point, and the bits the block does not examine,
the ARM condition field among them, change nothing. -/
def Obligations.UnexaminedBitsChangeNothing : Prop :=
  ∀ (w w' : Word) (s : State),
    (w &&& 0x01FFFFFF = w' &&& 0x01FFFFFF →
      ∃ t, runTransaction (.branch (bytesOfWord w)) s = .next t ∧ runTransaction (.branch (bytesOfWord w')) s = .next t) ∧
    (w &&& 0x0000001F = w' &&& 0x0000001F →
      ∃ t, runTransaction (.bx (bytesOfWord w)) s = .next t ∧ runTransaction (.bx (bytesOfWord w')) s = .next t)

/-- Decode and encode agree: every well-formed instruction, encoded and presented at its entry point, is read back. -/
def Obligations.DecodeOfEncodeIsTheInstruction : Prop :=
  ∀ i : Instr, i.WellFormed → decode (entryPoint i) (encodeBytes i) = .ok i

/-- The other direction: what is decoded is well-formed, belongs to the entry point it was presented at, and encodes to a word with the
same examined bits. -/
def Obligations.EncodeOfDecodeKeepsTheExaminedBits : Prop :=
  ∀ w : Word,
    (∀ e, (decodeWord e w).WellFormed ∧ entryPoint (decodeWord e w) = e) ∧
    encode (decodeWord .branch w) &&& 0x01FFFFFF = w &&& 0x01FFFFFF ∧
    encode (decodeWord .bx w) &&& 0x0000001F = w &&& 0x0000001F

/-- Words written out from the encodings of R72, R73 and 95_test_vectors.md (S6, V-D2, V-D3, V-D7). -/
def Obligations.WordsOfTheSpecDecodeAsListed : Prop :=
  decode .branch [0x2E, 0x00, 0x00, 0xEA] = .ok (.b 0x00002E) ∧
  decode .branch [0x00, 0x00, 0x00, 0xEB] = .ok (.bl 0x000000) ∧
  decode .bx [0x13, 0xFF, 0x2F, 0xE1] = .ok (.bx 1 3) ∧
  decode .branch [0x01, 0x02, 0x03, 0x04] = .ok (.b 0x030201) ∧
  decode .bx [0x01, 0x02, 0x03, 0x04] = .ok (.bx 0 1)

/-! ## The offset -/

/-- R75: a field with bit 23 clear is the offset; with bit 23 set its unsigned value is negated in 32 bits. -/
def Obligations.OffsetWithBit23SetIsNegated : Prop :=
  ∀ f : BitVec 24,
    (f.getLsbD 23 = false → (signedOffset f).toNat = f.toNat) ∧
    (f.getLsbD 23 = true → (signedOffset f).toNat = 2 ^ 32 - f.toNat)

/-- R76: the negation is not two's-complement sign extension; with bit 23 set the two agree only at 0x800000, and a larger field goes
further back. (The spec marks this as derived.) -/
def Obligations.NegationIsNotSignExtension : Prop :=
  (∀ f : BitVec 24, f.getLsbD 23 = true → (signedOffset f = f.signExtend 32 ↔ f = 0x800000)) ∧
  (∀ f : BitVec 24, f.getLsbD 23 = false → signedOffset f = f.signExtend 32) ∧
  (∀ f g : BitVec 24, f.getLsbD 23 = true → g.getLsbD 23 = true → f.toNat < g.toNat →
    (signedOffset g).toNat < (signedOffset f).toNat)

/-! ## B, BL and BX -/

/-- R142: B completes in every state; r15 is the stored r15 + 8 + 4 x off; no other cell, neither mode, and no error. -/
def Obligations.BranchWritesTheTargetAndNothingElse : Prop :=
  ∀ (f : BitVec 24) (s : State), ∃ t, exec (.b f) s = .next t ∧
    t.rf.read ⟨.su, .r15⟩ =
      s.rf.read ⟨.su, .r15⟩ + 8 + 4 * (if f.getLsbD 23 then 0 - f.setWidth 32 else f.setWidth 32) ∧
    SameCellsBut [⟨.su, .r15⟩] s t ∧ SameModes s t ∧ t.out = ⟨.none, false⟩

/-- R143, R146: BL completes in every state; r15 as for B; the current mode's r14 is the UPDATED r15 + 4, in the cell R146's table gives
for each mode; no other cell (the r14 of the other banks among them), neither mode, and no error. -/
def Obligations.BranchWithLinkWritesTheUpdatedPcPlus4 : Prop :=
  ∀ (f : BitVec 24) (s : State), ∃ t, exec (.bl f) s = .next t ∧
    t.rf.read ⟨.su, .r15⟩ =
      s.rf.read ⟨.su, .r15⟩ + 8 + 4 * (if f.getLsbD 23 then 0 - f.setWidth 32 else f.setWidth 32) ∧
    t.rf.read ⟨bankOf s.mode, .r14⟩ = t.rf.read ⟨.su, .r15⟩ + 4 ∧
    SameCellsBut [⟨.su, .r15⟩, ⟨bankOf s.mode, .r14⟩] s t ∧ SameModes s t ∧ t.out = ⟨.none, false⟩ ∧
    (s.mode = .usr ∨ s.mode = .sys → t.rf.read ⟨.su, .r14⟩ = t.rf.read ⟨.su, .r15⟩ + 4) ∧
    (s.mode = .fiq → t.rf.read ⟨.fiq, .r14⟩ = t.rf.read ⟨.su, .r15⟩ + 4) ∧
    (s.mode = .svc → t.rf.read ⟨.svc, .r14⟩ = t.rf.read ⟨.su, .r15⟩ + 4) ∧
    (s.mode = .abt → t.rf.read ⟨.abt, .r14⟩ = t.rf.read ⟨.su, .r15⟩ + 4) ∧
    (s.mode = .irq → t.rf.read ⟨.irq, .r14⟩ = t.rf.read ⟨.su, .r15⟩ + 4) ∧
    (s.mode = .und → t.rf.read ⟨.und, .r14⟩ = t.rf.read ⟨.su, .r15⟩ + 4)

/-- R145: the closed forms of target and link, as numbers modulo 2^32. -/
def Obligations.BranchArithmeticWrapsAt32Bits : Prop :=
  ∀ (f : BitVec 24) (s : State), ∃ t u, exec (.b f) s = .next t ∧ exec (.bl f) s = .next u ∧
    (f.getLsbD 23 = false →
      t.pc.toNat = (s.pc.toNat + 8 + 4 * f.toNat) % 2 ^ 32 ∧ u.pc.toNat = (s.pc.toNat + 8 + 4 * f.toNat) % 2 ^ 32 ∧
      (u.rf.read (linkCell s.mode)).toNat = (s.pc.toNat + 12 + 4 * f.toNat) % 2 ^ 32) ∧
    (f.getLsbD 23 = true →
      t.pc.toNat = (s.pc.toNat + 8 + (2 ^ 32 - 4 * f.toNat)) % 2 ^ 32 ∧
      u.pc.toNat = (s.pc.toNat + 8 + (2 ^ 32 - 4 * f.toNat)) % 2 ^ 32 ∧
      (u.rf.read (linkCell s.mode)).toNat = (s.pc.toNat + 12 + (2 ^ 32 - 4 * f.toNat)) % 2 ^ 32)

/-- R54 with the spec's decision D14 (log 17): B and BL neither check nor clear the low two bits of r15; they carry them through. -/
def Obligations.BranchCarriesTheLowTwoBitsThrough : Prop :=
  ∀ (f : BitVec 24) (s : State), ∃ t u, exec (.b f) s = .next t ∧ exec (.bl f) s = .next u ∧
    t.pc.toNat % 4 = s.pc.toNat % 4 ∧ u.pc.toNat % 4 = s.pc.toNat % 4 ∧
    (u.rf.read (linkCell s.mode)).toNat % 4 = s.pc.toNat % 4

/-- R148 (a) to (e) and (h), which the spec marks as derived. -/
def Obligations.BranchCornerCases : Prop :=
  ∀ old : Word,
    branchTarget old 0 = old + 8 ∧ linkValue (branchTarget old 0) = old + 12 ∧
    branchTarget old 0x7FFFFF = old + 0x02000004 ∧
    branchTarget old 0x800000 = old + 8 - 0x02000000 ∧
    branchTarget old 0xFFFFFF = old + 8 - 0x03FFFFFC ∧
    branchTarget old 0xFFFFFE = old + 8 - 0x03FFFFF8 ∧
    linkValue 0xFFFFFFFC = 0

/-- R162, R164: BX completes for every operand a word can carry; r15 is the value of the source register under the current mode, all 32
bits of it; no other cell and neither mode changes, and nothing is raised. -/
def Obligations.BranchExchangeCopiesTheSourceRegister : Prop :=
  ∀ (op n : Nat) (s : State), op < 2 → n < 16 → ∃ c t, resolve s.mode n = some c ∧ exec (.bx op n) s = .next t ∧
    t.rf.read ⟨.su, .r15⟩ = s.rf.read c ∧
    SameCellsBut [⟨.su, .r15⟩] s t ∧ SameModes s t ∧ t.out = ⟨.none, false⟩

/-- R163, the spec's derivation and decision D16 (log 19): no word gives `operation` 3; without it BX is `x[15] <- x[n]`, whatever the
operation bit is; with it (which no word carries) the arm would link as BL does. -/
def Obligations.BranchExchangeLinkArmIsDead : Prop :=
  (∀ (w : Word) (op n : Nat), decodeWord .bx w = .bx op n → op ≠ 3) ∧
  (∀ (op n : Nat) (s : State), op < 2 → n < 16 →
    exec (.bx op n) s = .next ((s.setX 15 (s.x n)).answer .none false) ∧
    ∀ (B : Bank) (t : State), exec (.bx op n) s = .next t → t.rf.read ⟨B, .r14⟩ = s.rf.read ⟨B, .r14⟩) ∧
  (∀ (n : Nat) (s : State), n < 16 → ∃ t, exec (.bx 3 n) s = .next t ∧
    t.pc = s.x n ∧ t.rf.read (linkCell s.mode) = s.x n + 4 ∧ SameCellsBut [pcCell, linkCell s.mode] s t)

/-- R166 (a), the spec's decision D15 (log 18): BX from r15 leaves every cell and both modes as they are. -/
def Obligations.BranchExchangeFromR15ChangesNothing : Prop :=
  ∀ (op : Nat) (s : State), op < 2 → exec (.bx op 15) s = .next { s with out := ⟨.none, false⟩ }

/-- Over all instructions: no status word (R147, R167) and neither mode (R149, R164, R27) is written, and nothing is raised (which R147
and R167 mark as derived from R102). -/
def Obligations.InstructionsWriteNoStatusAndRaiseNothing : Prop :=
  ∀ (i : Instr) (s : State), i.WellFormed → ∃ t, exec i s = .next t ∧
    t.rf.read ⟨.su, .cpsr⟩ = s.rf.read ⟨.su, .cpsr⟩ ∧
    (∀ B : Bank, t.rf.read ⟨B, .spsr⟩ = s.rf.read ⟨B, .spsr⟩) ∧
    SameModes s t ∧ t.out.err = false

/-! ## The step -/

/-- A step runs the decoded instruction: when the driver's next transaction presents a buffer that decodes to a well-formed
instruction at the entry point the driver chose, the step takes the transaction from the queue and is `exec` of that instruction
(R71, R140, R160). -/
def Obligations.StepRunsTheDecodedInstruction : Prop :=
  ∀ (s : State) (e : EntryPoint) (buffer : List Byte) (rest : List Transaction) (i : Instr),
    s.pending = presentAt e buffer :: rest → decode e buffer = .ok i → i.WellFormed →
    step s = exec i { s with pending := rest }

/-- When a step stops (log 3, 14): it answers a next state exactly when the driver presents a transaction that keeps the contract of
R216; it faults exactly when nothing is presented (R9); it refuses only a buffer that is not four bytes (R52). -/
def Obligations.StepStopsOnlyOutsideTheContract : Prop :=
  ∀ s : State,
    ((∃ t, step s = .next t) ↔ ∃ tr rest, s.pending = tr :: rest ∧ tr.wf = true) ∧
    ((∃ r, step s = .fault r) ↔ s.pending = []) ∧
    (∀ r, step s = .refused r → ∃ e buffer rest, s.pending = presentAt e buffer :: rest ∧ buffer.length ≠ 4 ∧
      r = .bufferLength buffer.length)

/-- R59: the state after a sequence of transactions is the fold of the transaction rules over it; what the driver will issue
later (`later`) has no effect on it. -/
def Obligations.StepsAreTheFoldOfTheTransactions : Prop :=
  ∀ (ts later : List Transaction) (s : State),
    Sys2Proof.core.run ts.length { s with pending := ts ++ later } = foldTransactions ts { s with pending := later }

/-! ## Banks and registers -/

/-- R23: the valid slots of each bank. -/
def Obligations.BanksHoldExactlyTheirSlots : Prop :=
  ∀ k : Slot,
    (Bank.su.valid k = true ↔ k ≠ .spsr) ∧
    (Bank.fiq.valid k = true ↔ k ∈ [Slot.r8, .r9, .r10, .r11, .r12, .r13, .r14, .spsr]) ∧
    (∀ B ∈ [Bank.svc, .abt, .irq, .und], (B.valid k = true ↔ k ∈ [Slot.r13, .r14, .spsr]))

/-- R101 with the spec's decision D29: an access to a slot of the bank's valid set reads or writes that cell and nothing else; outside
it a read answers 0 with `err` and a write stores nothing. -/
def Obligations.BankAccessOutsideTheSlotSetIsInvalid : Prop :=
  ∀ (s : State) (c : Cell) (v : Word),
    (c.valid = true →
      bankGet s c = ⟨s.rf.read c, false⟩ ∧ (bankSet s c v).err = false ∧ (bankSet s c v).state.rf.read c = v ∧
      SameCellsBut [c] s (bankSet s c v).state ∧ SameModes s (bankSet s c v).state) ∧
    (c.valid = false → bankGet s c = ⟨0, true⟩ ∧ bankSet s c v = ⟨s, true⟩)

/-- R103: the multiplexer's table, with `bankOf` of R24 written out. -/
def Obligations.ResolveIsTheMultiplexerTable : Prop :=
  (∀ m : CpuMode,
    resolve m 0 = some ⟨.su, .r0⟩ ∧ resolve m 1 = some ⟨.su, .r1⟩ ∧ resolve m 2 = some ⟨.su, .r2⟩ ∧
    resolve m 3 = some ⟨.su, .r3⟩ ∧ resolve m 4 = some ⟨.su, .r4⟩ ∧ resolve m 5 = some ⟨.su, .r5⟩ ∧
    resolve m 6 = some ⟨.su, .r6⟩ ∧ resolve m 7 = some ⟨.su, .r7⟩ ∧ resolve m 15 = some ⟨.su, .r15⟩ ∧
    (m = .fiq → resolve m 8 = some ⟨.fiq, .r8⟩ ∧ resolve m 9 = some ⟨.fiq, .r9⟩ ∧ resolve m 10 = some ⟨.fiq, .r10⟩ ∧
      resolve m 11 = some ⟨.fiq, .r11⟩ ∧ resolve m 12 = some ⟨.fiq, .r12⟩) ∧
    (m ≠ .fiq → resolve m 8 = some ⟨.su, .r8⟩ ∧ resolve m 9 = some ⟨.su, .r9⟩ ∧ resolve m 10 = some ⟨.su, .r10⟩ ∧
      resolve m 11 = some ⟨.su, .r11⟩ ∧ resolve m 12 = some ⟨.su, .r12⟩) ∧
    resolve m 13 = some ⟨bankOf m, .r13⟩ ∧ resolve m 14 = some ⟨bankOf m, .r14⟩ ∧
    ∀ n, 16 ≤ n → resolve m n = none) ∧
  bankOf .usr = .su ∧ bankOf .sys = .su ∧ bankOf .fiq = .fiq ∧ bankOf .svc = .svc ∧ bankOf .abt = .abt ∧
  bankOf .irq = .irq ∧ bankOf .und = .und

/-- R104, the error form being the spec's decision D8 (log 12): RF_GET completes; it answers the resolved cell's word, or 0 with `err`
from 16 upwards, and changes no state. -/
def Obligations.RegisterReadAnswersTheResolvedCell : Prop :=
  ∀ (m : CpuMode) (n : Nat) (s : State), ∃ t, runTransaction (.rfGet m n) s = .next t ∧
    t.rf = s.rf ∧ SameModes s t ∧
    (∀ c, resolve m n = some c → t.out = ⟨.word (s.rf.read c), false⟩) ∧ (16 ≤ n → t.out = ⟨.word 0, true⟩)

/-- R105, the error form being the spec's decision D8 (log 12): RF_SET completes; below 16 it writes all 32 bits of exactly the
resolved cell, from 16 upwards it writes nothing and raises `err`; neither mode changes. -/
def Obligations.RegisterWriteChangesExactlyTheResolvedCell : Prop :=
  ∀ (m : CpuMode) (n : Nat) (v : Word) (s : State), ∃ t, runTransaction (.rfSet m n v) s = .next t ∧ SameModes s t ∧
    (n < 16 → ∃ c, resolve m n = some c ∧ t.rf.read c = v ∧ SameCellsBut [c] s t ∧ t.out = ⟨.none, false⟩) ∧
    (16 ≤ n → t.rf = s.rf ∧ t.out = ⟨.none, true⟩)

/-- R106, R107: the CPU's own access is the RegisterFile's under the current mode. -/
def Obligations.CpuAccessUsesTheCurrentMode : Prop :=
  ∀ (n : Nat) (v : Word) (s : State),
    runTransaction (.getReg n) s = runTransaction (.rfGet s.mode n) s ∧
    runTransaction (.setReg n v) s = runTransaction (.rfSet s.mode n v) s

/-- R118, which the spec marks as derived from R103 to R105: the source's testable properties of banking. (a) r0 to r7 and r15 are
shared by all modes; (b) r8 to r12 are isolated between FIQ and the other modes, which share one copy; (c) r13 and r14 are isolated
between modes of different banks, and shared by USR and SYS, as the spec resolves in C10 (90_conflicts.md); (d) an invalid number
reads 0 and writes nothing, and its `err` is the spec's decision D8 (log 12). -/
def Obligations.BankedRegistersAreIsolated : Prop :=
  ∀ (s : State) (m m' : CpuMode) (n : Nat) (v : Word),
    (n ≤ 7 ∨ n = 15 → ReadsAfterWrite s m n v m' n ⟨v, false⟩) ∧
    (8 ≤ n ∧ n ≤ 12 → (m = .fiq ↔ m' ≠ .fiq) → ReadsAfterWrite s m n v m' n (rfGet s m' n)) ∧
    (8 ≤ n ∧ n ≤ 12 → (m = .fiq ↔ m' = .fiq) → ReadsAfterWrite s m n v m' n ⟨v, false⟩) ∧
    (n = 13 ∨ n = 14 → bankOf m ≠ bankOf m' → ReadsAfterWrite s m n v m' n (rfGet s m' n)) ∧
    (n = 13 ∨ n = 14 → bankOf m = bankOf m' → ReadsAfterWrite s m n v m' n ⟨v, false⟩) ∧
    (16 ≤ n → ReadsAfterWrite s m n v m' n ⟨0, true⟩ ∧
      ∃ t, runTransaction (.rfSet m n v) s = .next t ∧ t.rf = s.rf ∧ SameModes s t)

/-! ## Status words and modes -/

/-- R109, R110, the spec's decisions D6 and D7 (log 11): CPSR is one cell for every mode; SETCPSR writes all 32 bits of it and nothing
else, the modes among what it leaves. -/
def Obligations.CpsrIsOneUninterpretedWord : Prop :=
  ∀ (v : Word) (s : State),
    (∃ t, runTransaction .getCpsr s = .next t ∧ t.rf = s.rf ∧ SameModes s t ∧ t.out = ⟨.word (s.rf.read ⟨.su, .cpsr⟩), false⟩) ∧
    (∃ t, runTransaction (.setCpsr v) s = .next t ∧ t.rf.read ⟨.su, .cpsr⟩ = v ∧ SameCellsBut [⟨.su, .cpsr⟩] s t ∧
      SameModes s t ∧ t.out = ⟨.none, false⟩)

/-- R111, R112, the spec's decision D6 (log 11): in the five modes that have one, GETSPSR and SETSPSR reach the current bank's SPSR and
nothing else; under USR and SYS the read answers 0 and the write stores nothing, both with `err`. -/
def Obligations.SpsrAccessReachesTheCurrentBank : Prop :=
  ∀ (v : Word) (s : State), ∃ t u, runTransaction .getSpsr s = .next t ∧ runTransaction (.setSpsr v) s = .next u ∧
    t.rf = s.rf ∧ SameModes s t ∧ SameModes s u ∧
    (s.mode ≠ .usr → s.mode ≠ .sys →
      t.out = ⟨.word (s.rf.read ⟨bankOf s.mode, .spsr⟩), false⟩ ∧ u.rf.read ⟨bankOf s.mode, .spsr⟩ = v ∧
      SameCellsBut [⟨bankOf s.mode, .spsr⟩] s u ∧ u.out = ⟨.none, false⟩) ∧
    (s.mode = .usr ∨ s.mode = .sys → t.out = ⟨.word 0, true⟩ ∧ u.rf = s.rf ∧ u.out = ⟨.none, true⟩)

/-- R101, the spec's derivation: the SPSR transactions are the bank-level access to the `spsr` slot of the current mode's bank, which
the System/User bank does not have. -/
def Obligations.SpsrAccessIsBankAccess : Prop :=
  ∀ (v : Word) (s : State),
    getSpsr s = bankGet s ⟨bankOf s.mode, .spsr⟩ ∧ setSpsr s v = bankSet s ⟨bankOf s.mode, .spsr⟩ v

/-- R212, with R113, the spec's decision D2 (log 9): SETMODE writes `mode` and nothing else, CPSR, every SPSR and `imode` among what it
leaves; the transaction after it selects its bank by the new mode, and no register value moves with the switch. -/
def Obligations.ModeSwitchSelectsTheNewBankAtOnce : Prop :=
  ∀ (m : CpuMode) (s : State), ∃ t, runTransaction (.setMode m) s = .next t ∧
    t = { s with mode := m, out := ⟨.none, false⟩ } ∧
    (∀ n, getReg t n = rfGet s m n) ∧
    (∀ n v, (setReg t n v).err = (rfSet s m n v).err ∧ (setReg t n v).state.rf = (rfSet s m n v).state.rf) ∧
    (∀ f, ∃ u, exec (.bl f) t = .next u ∧ SameCellsBut [pcCell, linkCell m] s u)

/-- R114, R115, R116, the spec's decisions D3 and D31 (log 10): the mode getters answer and change nothing; SETIMODE writes `imode`
only. -/
def Obligations.ModeTransactionsReadOrWriteOneElement : Prop :=
  ∀ (i : InstructionMode) (s : State),
    runTransaction .getMode s = .next { s with out := ⟨.mode s.mode, false⟩ } ∧
    runTransaction .getImode s = .next { s with out := ⟨.imode s.imode, false⟩ } ∧
    runTransaction (.setImode i) s = .next { s with imode := i, out := ⟨.none, false⟩ }

/-! ## Rules of the whole machine -/

/-- R27, R28 (with the spec's decisions D2, D3): only RESET and SETMODE change `mode`, only RESET and SETIMODE change `imode`. -/
def Obligations.OnlyResetAndTheirSettersChangeTheModes : Prop :=
  ∀ s t : State, step s = .next t →
    (t.mode ≠ s.mode → ∃ tr rest, s.pending = tr :: rest ∧ ((∃ b, tr = .reset b) ∨ ∃ m, tr = .setMode m)) ∧
    (t.imode ≠ s.imode → ∃ tr rest, s.pending = tr :: rest ∧ ((∃ b, tr = .reset b) ∨ ∃ i, tr = .setImode i))

/-- R29, the sentence on how the program counter advances: "it changes only by B, BL, BX, SETREG(15, v), RF_SET(m, 15, v) and
Reset". -/
def Obligations.OnlyBranchesR15WritesAndResetMoveThePc : Prop :=
  ∀ s t : State, step s = .next t → t.pc ≠ s.pc → ∃ tr rest, s.pending = tr :: rest ∧
    ((∃ b, tr = .reset b) ∨ (∃ v, tr = .setReg 15 v) ∨ (∃ m v, tr = .rfSet m 15 v) ∨ (∃ buffer, tr = .branch buffer) ∨
      ∃ buffer, tr = .bx buffer)

/-- R30, R31 (with the spec's decision D7): CPSR changes only by SETCPSR and RESET, an SPSR only by SETSPSR in its own mode and by
RESET. -/
def Obligations.OnlyTheirSettersAndResetChangeTheStatusWords : Prop :=
  ∀ s t : State, step s = .next t →
    (t.rf.read cpsrCell ≠ s.rf.read cpsrCell →
      ∃ tr rest, s.pending = tr :: rest ∧ ((∃ b, tr = .reset b) ∨ ∃ v, tr = .setCpsr v)) ∧
    (∀ B : Bank, t.rf.read ⟨B, .spsr⟩ ≠ s.rf.read ⟨B, .spsr⟩ →
      ∃ tr rest, s.pending = tr :: rest ∧ ((∃ b, tr = .reset b) ∨ (∃ v, tr = .setSpsr v) ∧ B = bankOf s.mode))

/-- R117: the frame rule. Every transaction of 40_register_access.md writes at most the one element its rule names (`WritesAtMost`:
`resolve m n` for RF_SET, `resolve mode n` for SETREG, CPSR for SETCPSR, the current mode's SPSR for SETSPSR, `mode`, `imode`), and one
that raises InvalidRegisterAccess writes nothing. -/
def Obligations.AccessTransactionsWriteAtMostOneElement : Prop :=
  ∀ (tr : Transaction) (s t : State), runTransaction tr s = .next t →
    WritesAtMost tr s t ∧ (t.out.err = true → t.rf = s.rf ∧ t.mode = s.mode ∧ t.imode = s.imode)

/-- R182, which the spec marks as derived: the complete list of when `err` is raised. -/
def Obligations.ErrIsRaisedExactlyWhenListed : Prop :=
  ∀ (tr : Transaction) (s t : State), runTransaction tr s = .next t →
    (t.out.err = true ↔
      ((∃ m n, tr = .rfGet m n ∧ 16 ≤ n) ∨ (∃ m n v, tr = .rfSet m n v ∧ 16 ≤ n) ∨ (∃ n, tr = .getReg n ∧ 16 ≤ n) ∨
        (∃ n v, tr = .setReg n v ∧ 16 ≤ n) ∨
        ((tr = .getSpsr ∨ ∃ v, tr = .setSpsr v) ∧ (s.mode = .usr ∨ s.mode = .sys))))

/-- R181 and R186 with the spec's decision D8 (log 12): a transaction that raises InvalidRegisterAccess changes nothing but the outputs,
gives a zero read, and the next transaction is taken from the state before it. -/
def Obligations.InvalidRegisterAccessTakesNoTrap : Prop :=
  ∀ s t : State, step s = .next t → t.out.err = true →
    (t.out.result = .none ∨ t.out.result = .word 0) ∧ t = { s with pending := s.pending.tail, out := t.out }

/-- R108, which the spec marks as derived: USR and SYS are indistinguishable to every transaction but GETMODE. -/
def Obligations.UserAndSystemAreIndistinguishable : Prop :=
  ∀ s t : State, EqualUpToUserSystem s t → s.pending.head? ≠ some .getMode →
    OutcomeRel EqualUpToUserSystem (step s) (step t)

/-- R28 with the spec's decision D3 (log 10): nothing but GETIMODE reads `imode`; no B, BL, BX or access depends on it. -/
def Obligations.ImodeIsSeenOnlyByGetImode : Prop :=
  ∀ s t : State, EqualButImode s t → s.pending.head? ≠ some .getImode → OutcomeRel EqualButImode (step s) (step t)

/-- R30, R31, R32 with the spec's decision D7 (log 11): the status words decide nothing; only GETCPSR and GETSPSR show them. -/
def Obligations.StatusWordsAreSeenOnlyByTheirReads : Prop :=
  ∀ s t : State, EqualButStatus s t → s.pending.head? ≠ some .getCpsr → s.pending.head? ≠ some .getSpsr →
    OutcomeRel EqualButStatus (step s) (step t)

/-- The invariant `Inv` (the driver's contract of R216 and "zero when `err` is set" of R120) is kept by every step, from every state
that has it. -/
def Obligations.EveryStepKeepsInv : Prop :=
  ∀ s t : State, Inv s → step s = .next t → Inv t

/-- `Inv` holds at reset. -/
def Obligations.InvHoldsAtReset : Prop := Inv State.reset

/-- R208, R215, R216: under the driver's contract no transaction blocks or stops; the whole queue is run, one step each. -/
def Obligations.RunsUnderTheContractAreNeverStopped : Prop :=
  ∀ s : State, s.contract = true → ∃ t, RunsTo s.pending.length s t ∧ t.pending = []

/-! ## Reset -/

/-- R201, R203: RESET completes from every state and writes all 37 cells and both modes. The zero of the FIQ bank's r8 to r12 is the
spec's decision D25 (log 8), the modes are `Config.resetMode` and `Config.resetImode` (D4, D5, log 6, 7). -/
def Obligations.ResetWritesTheBootTable : Prop :=
  ∀ (usingBIOS : Bool) (s : State), ∃ t, runTransaction (.reset usingBIOS) s = .next t ∧
    (∀ k ∈ [Slot.r0, .r1, .r2, .r3, .r4, .r5, .r6, .r7, .r8, .r9, .r10, .r11, .r12], t.rf.read ⟨.su, k⟩ = 0) ∧
    (∀ k ∈ [Slot.r8, .r9, .r10, .r11, .r12], t.rf.read ⟨.fiq, k⟩ = 0) ∧
    (∀ B, t.rf.read ⟨B, .r14⟩ = 0) ∧ (∀ B ≠ Bank.su, t.rf.read ⟨B, .spsr⟩ = 0) ∧
    (usingBIOS = false →
      t.rf.read ⟨.su, .r13⟩ = 0x03007F00 ∧ t.rf.read ⟨.fiq, .r13⟩ = 0x03007F00 ∧ t.rf.read ⟨.svc, .r13⟩ = 0x03007FE0 ∧
      t.rf.read ⟨.irq, .r13⟩ = 0x03007FA0 ∧ t.rf.read ⟨.abt, .r13⟩ = 0x03007F00 ∧ t.rf.read ⟨.und, .r13⟩ = 0x03007F00 ∧
      t.rf.read ⟨.su, .r15⟩ = 0x08000000 ∧ t.rf.read ⟨.su, .cpsr⟩ = 0x0000005F) ∧
    (usingBIOS = true →
      (∀ B, t.rf.read ⟨B, .r13⟩ = 0) ∧ t.rf.read ⟨.su, .r15⟩ = 0 ∧ t.rf.read ⟨.su, .cpsr⟩ = 0x000000D3) ∧
    t.mode = Config.resetMode usingBIOS ∧ t.imode = Config.resetImode usingBIOS ∧
    t.pending = s.pending ∧ t.out = ⟨.none, false⟩

/-- R202: RESET reads nothing of the earlier state (its current mode among it), is idempotent (which R202 marks as derived), and leaves
every mode's r13 at the table's value. That every cell and both modes come out equal from any two states rests on the spec's decisions
D25 for FIQ r8 to r12 (log 8), D4 for `mode` (log 6) and D5 for `imode` (log 7). -/
def Obligations.ResetIsIndependentOfTheEarlierState : Prop :=
  ∀ (b : Bool) (s s' : State), ∃ t, runTransaction (.reset b) s = .next t ∧
    runTransaction (.reset b) s' = .next { t with pending := s'.pending } ∧
    runTransaction (.reset b) t = .next t ∧
    (b = false → ∀ m, rfGet t m 13 =
      ⟨(match m with | .svc => 0x03007FE0 | .irq => 0x03007FA0 | _ => 0x03007F00), false⟩) ∧
    (b = true → (∀ m, rfGet t m 13 = ⟨0, false⟩) ∧ t.pc = 0 ∧ t.rf.read cpsrCell = 0xD3)

/-- The model's choice (log 5, 6, 7, 22): `State.reset` is what RESET(false) leaves, from the power-on state as from any other, with
SYS and ARM. -/
def Obligations.StateResetIsTheDirectBoot : Prop :=
  (∀ s : State, runTransaction (.reset false) s = .next { State.reset with pending := s.pending }) ∧
  (∀ rest, step (State.powerOn (.reset false :: rest)) = .next { State.reset with pending := rest }) ∧
  State.reset.mode = .sys ∧ State.reset.imode = .arm ∧ Config.resetMode true = .svc ∧ Config.resetImode true = .arm

/-- R203's reason for the reset modes, under the informative layout of R32 (general knowledge, log 24): the mode field and the Thumb bit
of each CPSR literal agree with the modes Reset sets. -/
def Obligations.ResetModesAgreeWithTheCpsrLiterals : Prop :=
  ∀ b : Bool,
    (statusFields ((RegFile.afterReset b).read cpsrCell)).modeBits = armModeBits (Config.resetMode b) ∧
    ((statusFields ((RegFile.afterReset b).read cpsrCell)).thumb = true ↔ Config.resetImode b = .thumb)

/-- R207, the spec's reading (N32, log 26): after RESET(false) the source's literal, handed from the ROM entry-point field to BRANCH,
gives r15 = 0x080000C0. -/
def Obligations.RomEntryFieldSeedsTheFirstTarget : Prop :=
  ∀ (rest : List Byte) (s : State), ∃ t,
    foldTransactions (bootTransactions ([0x2E, 0x00, 0x00, 0xEA] ++ rest)) s = .next t ∧ t.pc = 0x080000C0 ∧
    SameCellsBut [pcCell] State.reset t
end

