-- ==== Sys2Proof/Laws/Banks.lean ====
section
/-! SUPPORT. The laws of the cells: reading a cell after a write, and which cells the multiplexer yields. -/

namespace Sys2Proof.Machine

theorem SuBank.read_write (b : SuBank) (k k' : Slot) (v : Word) (h : Bank.su.valid k = true) :
    (b.write k v).read k' = if k' = k then v else b.read k' := by
  cases k <;> first | exact absurd h (by decide) | (cases k' <;> rfl)

theorem FiqBank.read_write (b : FiqBank) (k k' : Slot) (v : Word) (h : Bank.fiq.valid k = true) :
    (b.write k v).read k' = if k' = k then v else b.read k' := by
  cases k <;> first | exact absurd h (by decide) | (cases k' <;> rfl)

theorem PrivateBank.read_write (b : PrivateBank) (k k' : Slot) (v : Word) (h : Bank.svc.valid k = true) :
    (b.write k v).read k' = if k' = k then v else b.read k' := by
  cases k <;> first | exact absurd h (by decide) | (cases k' <;> rfl)

/-- Reading any cell after a write of a cell that exists: the written value there, the old value everywhere else. -/
theorem RegFile.read_write (rf : RegFile) (c c' : Cell) (v : Word) (h : c.valid = true) :
    (rf.write c v).read c' = if c' = c then v else rf.read c' := by
  obtain ⟨B, k⟩ := c
  obtain ⟨B', k'⟩ := c'
  cases B <;> cases B' <;>
    first
    | (simp only [Cell.mk.injEq, reduceCtorEq, false_and, if_false]; rfl)
    | (simp only [Cell.mk.injEq, true_and]
       first
       | exact SuBank.read_write _ _ _ _ h
       | exact FiqBank.read_write _ _ _ _ h
       | exact PrivateBank.read_write _ _ _ _ (show Bank.svc.valid k = true from by cases k <;> first | exact absurd h (by decide) | rfl))

@[simp] theorem RegFile.read_write_same (rf : RegFile) (c : Cell) (v : Word) (h : c.valid = true) :
    (rf.write c v).read c = v := by simp [RegFile.read_write _ _ _ _ h]

theorem RegFile.read_write_other (rf : RegFile) (c c' : Cell) (v : Word) (hne : c' ≠ c) (h : c.valid = true) :
    (rf.write c v).read c' = rf.read c' := by simp [RegFile.read_write _ _ _ _ h, hne]

/-- A write of a cell that does not exist changes nothing. -/
theorem RegFile.write_invalid (rf : RegFile) (c : Cell) (v : Word) (h : c.valid = false) : rf.write c v = rf := by
  obtain ⟨B, k⟩ := c
  cases B <;> cases k <;> first | exact absurd h (by decide) | rfl

/-- Writing the value a cell already holds changes nothing (R105). -/
theorem RegFile.write_read (rf : RegFile) (c : Cell) : rf.write c (rf.read c) = rf := by
  obtain ⟨B, k⟩ := c
  cases B <;> cases k <;> rfl

/-- Two register files that agree on every cell are equal: the cells are the whole register file (R20). -/
theorem RegFile.ext_read {rf rf' : RegFile} (h : ∀ c : Cell, c.valid = true → rf.read c = rf'.read c) : rf = rf' := by
  obtain ⟨⟨⟩, ⟨⟩, ⟨⟩, ⟨⟩, ⟨⟩, ⟨⟩⟩ := rf
  obtain ⟨⟨⟩, ⟨⟩, ⟨⟩, ⟨⟩, ⟨⟩, ⟨⟩⟩ := rf'
  simp only [RegFile.mk.injEq, SuBank.mk.injEq, FiqBank.mk.injEq, PrivateBank.mk.injEq]
  refine ⟨⟨?_, ?_, ?_, ?_, ?_, ?_, ?_, ?_, ?_, ?_, ?_, ?_, ?_, ?_, ?_, ?_, ?_⟩, ⟨?_, ?_, ?_, ?_, ?_, ?_, ?_, ?_⟩, ⟨?_, ?_, ?_⟩,
    ⟨?_, ?_, ?_⟩, ⟨?_, ?_, ?_⟩, ⟨?_, ?_, ?_⟩⟩
  · exact h ⟨.su, .r0⟩ rfl
  · exact h ⟨.su, .r1⟩ rfl
  · exact h ⟨.su, .r2⟩ rfl
  · exact h ⟨.su, .r3⟩ rfl
  · exact h ⟨.su, .r4⟩ rfl
  · exact h ⟨.su, .r5⟩ rfl
  · exact h ⟨.su, .r6⟩ rfl
  · exact h ⟨.su, .r7⟩ rfl
  · exact h ⟨.su, .r8⟩ rfl
  · exact h ⟨.su, .r9⟩ rfl
  · exact h ⟨.su, .r10⟩ rfl
  · exact h ⟨.su, .r11⟩ rfl
  · exact h ⟨.su, .r12⟩ rfl
  · exact h ⟨.su, .r13⟩ rfl
  · exact h ⟨.su, .r14⟩ rfl
  · exact h ⟨.su, .r15⟩ rfl
  · exact h ⟨.su, .cpsr⟩ rfl
  · exact h ⟨.fiq, .r8⟩ rfl
  · exact h ⟨.fiq, .r9⟩ rfl
  · exact h ⟨.fiq, .r10⟩ rfl
  · exact h ⟨.fiq, .r11⟩ rfl
  · exact h ⟨.fiq, .r12⟩ rfl
  · exact h ⟨.fiq, .r13⟩ rfl
  · exact h ⟨.fiq, .r14⟩ rfl
  · exact h ⟨.fiq, .spsr⟩ rfl
  · exact h ⟨.svc, .r13⟩ rfl
  · exact h ⟨.svc, .r14⟩ rfl
  · exact h ⟨.svc, .spsr⟩ rfl
  · exact h ⟨.abt, .r13⟩ rfl
  · exact h ⟨.abt, .r14⟩ rfl
  · exact h ⟨.abt, .spsr⟩ rfl
  · exact h ⟨.irq, .r13⟩ rfl
  · exact h ⟨.irq, .r14⟩ rfl
  · exact h ⟨.irq, .spsr⟩ rfl
  · exact h ⟨.und, .r13⟩ rfl
  · exact h ⟨.und, .r14⟩ rfl
  · exact h ⟨.und, .spsr⟩ rfl

@[simp] theorem pcCell_valid : pcCell.valid = true := rfl
@[simp] theorem cpsrCell_valid : cpsrCell.valid = true := rfl
@[simp] theorem linkCell_valid (m : CpuMode) : (linkCell m).valid = true := by cases m <;> rfl
@[simp] theorem linkCell_ne_pcCell (m : CpuMode) : linkCell m ≠ pcCell := by cases m <;> decide
@[simp] theorem pcCell_ne_linkCell (m : CpuMode) : pcCell ≠ linkCell m := (linkCell_ne_pcCell m).symm

/-- The SPSR cell exists exactly for the five modes that are not USR or SYS (R31). -/
theorem spsrCell_valid (m : CpuMode) : (spsrCell m).valid = !(decide (m = .usr) || decide (m = .sys)) := by
  cases m <;> rfl

@[simp] theorem resolve_fifteen (m : CpuMode) : resolve m 15 = some pcCell := rfl
@[simp] theorem resolve_fourteen (m : CpuMode) : resolve m 14 = some (linkCell m) := rfl

theorem resolve_invalid (m : CpuMode) {n : Nat} (h : 16 ≤ n) : resolve m n = none := by
  unfold resolve
  rw [if_neg (by omega), if_neg (by omega), if_neg (by omega)]

/-- A register number the block accepts selects a cell, and the cell exists. -/
theorem resolve_some_of_lt (m : CpuMode) {n : Nat} (h : n < 16) : ∃ c, resolve m n = some c ∧ c.valid = true := by
  have : ∀ n : Fin 16, ∃ c, resolve m n = some c ∧ c.valid = true := by
    cases m <;> intro n <;> fin_cases n <;> exact ⟨_, rfl, rfl⟩
  exact this ⟨n, h⟩

theorem resolve_eq_none_iff (m : CpuMode) (n : Nat) : resolve m n = none ↔ 16 ≤ n := by
  refine ⟨fun h => ?_, resolve_invalid m⟩
  by_contra hn
  obtain ⟨c, hc, -⟩ := resolve_some_of_lt m (n := n) (by omega)
  rw [h] at hc
  cases hc

/-- The multiplexer never selects a status word: CPSR and SPSR have no register number (R30, R31). -/
theorem resolve_slot {m : CpuMode} {n : Nat} {c : Cell} (h : resolve m n = some c) :
    c.valid = true ∧ c.slot ≠ .cpsr ∧ c.slot ≠ .spsr := by
  have hlt : n < 16 := by
    by_contra hn
    rw [resolve_invalid m (by omega)] at h
    cases h
  have : ∀ n : Fin 16, ∀ c, resolve m n = some c → c.valid = true ∧ c.slot ≠ .cpsr ∧ c.slot ≠ .spsr := by
    cases m <;> intro n c hc <;> fin_cases n <;> cases hc <;> decide
  exact this ⟨n, hlt⟩ c h

end Sys2Proof.Machine
end

