-- ==== Sys2Proof/Laws/State.lean ====
section
/-! SUPPORT. One lemma per field per update of State, each true by rfl, so that no later proof unfolds a record update. -/

namespace Sys2Proof.Machine

variable (s : State) (c : Cell) (v : Word) (r : PortResult) (e : Bool)

@[simp] theorem setCell_rf : (s.setCell c v).rf = s.rf.write c v := rfl
@[simp] theorem setCell_mode : (s.setCell c v).mode = s.mode := rfl
@[simp] theorem setCell_imode : (s.setCell c v).imode = s.imode := rfl
@[simp] theorem setCell_pending : (s.setCell c v).pending = s.pending := rfl
@[simp] theorem setCell_out : (s.setCell c v).out = s.out := rfl

@[simp] theorem answer_rf : (s.answer r e).rf = s.rf := rfl
@[simp] theorem answer_mode : (s.answer r e).mode = s.mode := rfl
@[simp] theorem answer_imode : (s.answer r e).imode = s.imode := rfl
@[simp] theorem answer_pending : (s.answer r e).pending = s.pending := rfl
@[simp] theorem answer_out : (s.answer r e).out = ⟨r, e⟩ := rfl

theorem answerRead_eq (x : ReadResult) : s.answerRead x = s.answer (.word x.value) x.err := rfl
theorem writeAnswer_eq (w : WriteResult) : w.answer = w.state.answer .none w.err := rfl

@[simp] theorem runReset_rf (b : Bool) : (runReset b s).rf = RegFile.afterReset b := rfl
@[simp] theorem runReset_mode (b : Bool) : (runReset b s).mode = Config.resetMode b := rfl
@[simp] theorem runReset_imode (b : Bool) : (runReset b s).imode = Config.resetImode b := rfl
@[simp] theorem runReset_pending (b : Bool) : (runReset b s).pending = s.pending := rfl
@[simp] theorem runReset_out (b : Bool) : (runReset b s).out = .quiet := rfl

@[simp] theorem runSetMode_rf (m : CpuMode) : (runSetMode m s).rf = s.rf := rfl
@[simp] theorem runSetMode_mode (m : CpuMode) : (runSetMode m s).mode = m := rfl
@[simp] theorem runSetMode_imode (m : CpuMode) : (runSetMode m s).imode = s.imode := rfl
@[simp] theorem runSetMode_pending (m : CpuMode) : (runSetMode m s).pending = s.pending := rfl
@[simp] theorem runSetMode_out (m : CpuMode) : (runSetMode m s).out = .quiet := rfl

@[simp] theorem runSetImode_rf (i : InstructionMode) : (runSetImode i s).rf = s.rf := rfl
@[simp] theorem runSetImode_mode (i : InstructionMode) : (runSetImode i s).mode = s.mode := rfl
@[simp] theorem runSetImode_imode (i : InstructionMode) : (runSetImode i s).imode = i := rfl
@[simp] theorem runSetImode_pending (i : InstructionMode) : (runSetImode i s).pending = s.pending := rfl
@[simp] theorem runSetImode_out (i : InstructionMode) : (runSetImode i s).out = .quiet := rfl

theorem runGetMode_eq : runGetMode s = s.answer (.mode s.mode) false := rfl
theorem runGetImode_eq : runGetImode s = s.answer (.imode s.imode) false := rfl

end Sys2Proof.Machine
end

