-- ==== Sys2Proof/Laws/Ops.lean ====
section
/-! SUPPORT. One specification lemma per shared operation; later proofs cite these and do not unfold the operation. -/

namespace Sys2Proof.Machine

variable (s : State)

theorem bankGet_valid {c : Cell} (h : c.valid = true) : bankGet s c = ⟨s.rf.read c, false⟩ := by simp [bankGet, h]
theorem bankGet_invalid {c : Cell} (h : c.valid = false) : bankGet s c = invalidRead := by simp [bankGet, h]
theorem bankSet_valid {c : Cell} (v : Word) (h : c.valid = true) : bankSet s c v = ⟨s.setCell c v, false⟩ := by simp [bankSet, h]
theorem bankSet_invalid {c : Cell} (v : Word) (h : c.valid = false) : bankSet s c v = invalidWrite s := by simp [bankSet, h]

/-- Everything `RF_get` can answer: InvalidRegisterAccess from 16 upwards, else the cell the multiplexer selects. -/
theorem rfGet_cases (m : CpuMode) (n : Nat) :
    (16 ≤ n ∧ rfGet s m n = invalidRead) ∨
    (n < 16 ∧ ∃ c, resolve m n = some c ∧ c.valid = true ∧ rfGet s m n = ⟨s.rf.read c, false⟩) := by
  by_cases h : n < 16
  · obtain ⟨c, hc, hv⟩ := resolve_some_of_lt m h
    exact .inr ⟨h, c, hc, hv, by simp [rfGet, hc, bankGet_valid s hv]⟩
  · exact .inl ⟨by omega, by simp [rfGet, resolve_invalid m (by omega : 16 ≤ n)]⟩

/-- Everything `RF_set` can do: nothing, with `err`, from 16 upwards, else rewrite the cell the multiplexer selects. -/
theorem rfSet_cases (m : CpuMode) (n : Nat) (v : Word) :
    (16 ≤ n ∧ rfSet s m n v = invalidWrite s) ∨
    (n < 16 ∧ ∃ c, resolve m n = some c ∧ c.valid = true ∧ rfSet s m n v = ⟨s.setCell c v, false⟩) := by
  by_cases h : n < 16
  · obtain ⟨c, hc, hv⟩ := resolve_some_of_lt m h
    exact .inr ⟨h, c, hc, hv, by simp [rfSet, hc, bankSet_valid s v hv]⟩
  · exact .inl ⟨by omega, by simp [rfSet, resolve_invalid m (by omega : 16 ≤ n)]⟩

theorem rfGet_of_resolve {m : CpuMode} {n : Nat} {c : Cell} (h : resolve m n = some c) :
    rfGet s m n = ⟨s.rf.read c, false⟩ := by
  simp [rfGet, h, bankGet_valid s (resolve_slot h).1]

theorem rfSet_of_resolve {m : CpuMode} {n : Nat} {c : Cell} (v : Word) (h : resolve m n = some c) :
    rfSet s m n v = ⟨s.setCell c v, false⟩ := by
  simp [rfSet, h, bankSet_valid s v (resolve_slot h).1]

theorem getReg_eq (n : Nat) : getReg s n = rfGet s s.mode n := rfl
theorem setReg_eq (n : Nat) (v : Word) : setReg s n v = rfSet s s.mode n v := rfl

/-- `x[15]` is the stored program counter, nothing added (R29). -/
@[simp] theorem x_fifteen : s.x 15 = s.pc := rfl
@[simp] theorem setX_fifteen (v : Word) : s.setX 15 v = s.setCell pcCell v := rfl
@[simp] theorem setX_fourteen (v : Word) : s.setX 14 v = s.setCell (linkCell s.mode) v := by
  simp [State.setX, setReg, rfSet_of_resolve s v (resolve_fourteen s.mode)]

@[simp] theorem answer_pc (r : PortResult) (e : Bool) : (s.answer r e).pc = s.pc := rfl
@[simp] theorem setCell_pc_same (v : Word) : (s.setCell pcCell v).pc = v :=
  RegFile.read_write_same _ _ _ pcCell_valid

/-- `GETCPSR` never fails (R109). -/
theorem getCpsr_eq : getCpsr s = ⟨s.rf.su.cpsr, false⟩ := rfl
/-- `SETCPSR` never fails (R110). -/
theorem setCpsr_eq (v : Word) : setCpsr s v = ⟨s.setCell cpsrCell v, false⟩ := rfl

/-- Everything `GETSPSR` can answer (R111). -/
theorem getSpsr_cases :
    ((s.mode = .usr ∨ s.mode = .sys) ∧ getSpsr s = invalidRead) ∨
    ((s.mode ≠ .usr ∧ s.mode ≠ .sys) ∧ (spsrCell s.mode).valid = true ∧ getSpsr s = ⟨s.rf.read (spsrCell s.mode), false⟩) := by
  cases h : s.mode <;> simp [getSpsr, h, bankGet, Cell.valid, spsrCell, bankOf, Bank.valid]

/-- Everything `SETSPSR` can do (R112). -/
theorem setSpsr_cases (v : Word) :
    ((s.mode = .usr ∨ s.mode = .sys) ∧ setSpsr s v = invalidWrite s) ∨
    ((s.mode ≠ .usr ∧ s.mode ≠ .sys) ∧ (spsrCell s.mode).valid = true ∧
      setSpsr s v = ⟨s.setCell (spsrCell s.mode) v, false⟩) := by
  cases h : s.mode <;> simp [setSpsr, h, bankSet, Cell.valid, spsrCell, bankOf, Bank.valid]

end Sys2Proof.Machine
end

