-- ==== Sys2Proof/Laws/Exec.lean ====
section
/-! SUPPORT. What each meaning, each transaction and a step do, said once in terms of the cells. -/

namespace Sys2Proof.Machine

variable (s : State)

theorem execB_eq (f : BitVec 24) :
    exec (.b f) s = .next ((s.setCell pcCell (branchTarget s.pc f)).answer .none false) := rfl

theorem execBl_eq (f : BitVec 24) :
    exec (.bl f) s = .next (((s.setCell pcCell (branchTarget s.pc f)).setCell (linkCell s.mode)
      (linkValue (branchTarget s.pc f))).answer .none false) := by
  simp [exec, execBl]

/-- BX whenever its operands are ones a word can carry: the link arm is not taken. -/
theorem execBx_eq {operation n : Nat} {c : Cell} (hop : operation < 2) (hc : resolve s.mode n = some c) :
    exec (.bx operation n) s = .next ((s.setCell pcCell (s.rf.read c)).answer .none false) := by
  have hne : operation ≠ 3 := by omega
  simp [exec, execBx, hne, getReg, rfGet_of_resolve s hc]

theorem decode_four (e : EntryPoint) (b0 b1 b2 b3 : Byte) :
    decode e [b0, b1, b2, b3] = .ok (decodeWord e (wordOfBytes b0 b1 b2 b3)) := rfl

/-- The decoder accepts a buffer exactly when it holds four bytes. -/
theorem decode_cases (e : EntryPoint) (buffer : List Byte) :
    (buffer.length = 4 ∧ ∃ w, decode e buffer = .ok (decodeWord e w)) ∨
    (buffer.length ≠ 4 ∧ decode e buffer = .error (.badLength buffer.length)) := by
  match buffer with
  | [b0, b1, b2, b3] => exact .inl ⟨rfl, _, rfl⟩
  | [] | [_] | [_, _] | [_, _, _] => exact .inr ⟨by simp, rfl⟩
  | _ :: _ :: _ :: _ :: _ :: _ => exact .inr ⟨by simp, rfl⟩

theorem decodeWord_wf (e : EntryPoint) (w : Word) : (decodeWord e w).wf = true := by
  cases e
  · simp only [decodeWord]; split <;> rfl
  · simp only [decodeWord, Instr.wf, fieldOperation, fieldSourceRegister, Bool.and_eq_true, decide_eq_true_eq]
    exact ⟨BitVec.isLt _, BitVec.isLt _⟩

theorem step_nil (h : s.pending = []) : step s = .fault .noTransaction := by simp [step, runNext, h]

theorem step_cons {t : Transaction} {rest : List Transaction} (h : s.pending = t :: rest) :
    step s = runTransaction t { s with pending := rest } := by simp [step, runNext, h]

theorem runInstruction_ok {e : EntryPoint} {buffer : List Byte} {i : Instr} (h : decode e buffer = .ok i) :
    runInstruction e buffer s = exec i s := by simp [runInstruction, h]

theorem runInstruction_badLength {e : EntryPoint} {buffer : List Byte} (h : buffer.length ≠ 4) :
    runInstruction e buffer s = .refused (.bufferLength buffer.length) := by
  obtain ⟨h4, -⟩ | ⟨-, hd⟩ := decode_cases e buffer
  · exact absurd h4 h
  · simp [runInstruction, hd]

/-- A well-formed instruction completes: it rewrites r15, and BL the current mode's r14, and touches nothing else. -/
theorem exec_cases {i : Instr} (hi : i.wf = true) :
    (∃ pc', exec i s = .next ((s.setCell pcCell pc').answer .none false)) ∨
    (∃ f, i = .bl f ∧ exec i s = .next (((s.setCell pcCell (branchTarget s.pc f)).setCell (linkCell s.mode)
      (linkValue (branchTarget s.pc f))).answer .none false)) := by
  cases i with
  | b f => exact .inl ⟨_, execB_eq s f⟩
  | bl f => exact .inr ⟨f, rfl, execBl_eq s f⟩
  | bx operation n =>
    simp only [Instr.wf, Bool.and_eq_true, decide_eq_true_eq] at hi
    obtain ⟨c, hc, -⟩ := resolve_some_of_lt s.mode hi.2
    exact .inl ⟨_, execBx_eq s hi.1 hc⟩

/-- What a well-formed instruction leaves: the modes, the queue, and every cell that is not an r15 or an r14. -/
theorem exec_frame {s t : State} {i : Instr} (hi : i.wf = true) (h : exec i s = .next t) :
    t.mode = s.mode ∧ t.imode = s.imode ∧ t.pending = s.pending ∧ t.out = .quiet ∧
      ∀ c : Cell, c.slot ≠ .r15 → c.slot ≠ .r14 → t.rf.read c = s.rf.read c := by
  have hpc : ∀ c : Cell, c.slot ≠ .r15 → c ≠ pcCell := by rintro c hc rfl; exact hc rfl
  have hlink : ∀ c : Cell, c.slot ≠ .r14 → c ≠ linkCell s.mode := by rintro c hc rfl; exact hc rfl
  obtain ⟨pc', h'⟩ | ⟨f, -, h'⟩ := exec_cases s hi <;> rw [h'] at h <;> cases h <;>
    refine ⟨rfl, rfl, rfl, rfl, fun c h15 h14 => ?_⟩
  · exact RegFile.read_write_other _ pcCell _ _ (hpc c h15) pcCell_valid
  · exact (RegFile.read_write_other _ (linkCell s.mode) _ _ (hlink c h14) (linkCell_valid _)).trans
      (RegFile.read_write_other _ pcCell _ _ (hpc c h15) pcCell_valid)

theorem runTransaction_presentAt (e : EntryPoint) (buffer : List Byte) :
    runTransaction (presentAt e buffer) s = runInstruction e buffer s := by cases e <;> rfl

/-- A branch transaction that gets a step runs a well-formed instruction. -/
theorem runInstruction_next {s t : State} {e : EntryPoint} {buffer : List Byte} (h : runInstruction e buffer s = .next t) :
    ∃ i, decode e buffer = .ok i ∧ i.wf = true ∧ exec i s = .next t := by
  obtain ⟨-, w, hw⟩ | ⟨hl, -⟩ := decode_cases e buffer
  · exact ⟨_, hw, decodeWord_wf _ _, by rw [runInstruction_ok s hw] at h; exact h⟩
  · rw [runInstruction_badLength s hl] at h
    cases h

/-- What a transaction can do, when it gets a step: RESET, a mode setter, an answer with the state unchanged (the reads, the mode
getters, and every write that raises), one cell rewritten, or an instruction. -/
theorem runTransaction_cases {tr : Transaction} {s t : State} (h : runTransaction tr s = .next t) :
    (∃ b, tr = .reset b ∧ t = runReset b s) ∨
    (∃ m, tr = .setMode m ∧ t = runSetMode m s) ∨
    (∃ i, tr = .setImode i ∧ t = runSetImode i s) ∨
    (∃ r e, t = s.answer r e) ∨
    (∃ c v, c.valid = true ∧ t = (s.setCell c v).answer .none false ∧
      ((c.slot ≠ .cpsr ∧ c.slot ≠ .spsr ∧
          ((∃ n, tr = .setReg n v ∧ resolve s.mode n = some c) ∨ ∃ m n, tr = .rfSet m n v ∧ resolve m n = some c)) ∨
        (c = cpsrCell ∧ tr = .setCpsr v) ∨ (c = spsrCell s.mode ∧ tr = .setSpsr v))) ∨
    (∃ e buffer i, tr = presentAt e buffer ∧ decode e buffer = .ok i ∧ i.wf = true ∧ exec i s = .next t) := by
  have write : ∀ m n v, (rfSet s m n v).answer = s.answer .none true ∨
      ∃ c, c.valid = true ∧ c.slot ≠ .cpsr ∧ c.slot ≠ .spsr ∧ resolve m n = some c ∧
        (rfSet s m n v).answer = (s.setCell c v).answer .none false := by
    intro m n v
    obtain ⟨-, e⟩ | ⟨-, c, hc, hv, e⟩ := rfSet_cases s m n v
    · exact .inl (by rw [e]; rfl)
    · exact .inr ⟨c, hv, (resolve_slot hc).2.1, (resolve_slot hc).2.2, hc, by rw [e]; rfl⟩
  cases tr with
  | reset b => cases h; exact .inl ⟨b, rfl, rfl⟩
  | setMode m => cases h; exact .inr (.inl ⟨m, rfl, rfl⟩)
  | setImode i => cases h; exact .inr (.inr (.inl ⟨i, rfl, rfl⟩))
  | getReg _ | rfGet _ _ | getCpsr | getSpsr | getMode | getImode =>
    cases h
    exact .inr (.inr (.inr (.inl ⟨_, _, rfl⟩)))
  | setReg n v =>
    obtain e | ⟨c, hv, h1, h2, hc, e⟩ := write s.mode n v <;> cases h
    · exact .inr (.inr (.inr (.inl ⟨_, _, e⟩)))
    · exact .inr (.inr (.inr (.inr (.inl ⟨c, v, hv, e, .inl ⟨h1, h2, .inl ⟨n, rfl, hc⟩⟩⟩))))
  | rfSet m n v =>
    obtain e | ⟨c, hv, h1, h2, hc, e⟩ := write m n v <;> cases h
    · exact .inr (.inr (.inr (.inl ⟨_, _, e⟩)))
    · exact .inr (.inr (.inr (.inr (.inl ⟨c, v, hv, e, .inl ⟨h1, h2, .inr ⟨m, n, rfl, hc⟩⟩⟩))))
  | setCpsr v => cases h; exact .inr (.inr (.inr (.inr (.inl ⟨cpsrCell, v, rfl, rfl, .inr (.inl ⟨rfl, rfl⟩)⟩))))
  | setSpsr v =>
    obtain ⟨-, e⟩ | ⟨-, hv, e⟩ := setSpsr_cases s v <;> cases h
    · exact .inr (.inr (.inr (.inl ⟨.none, true, by rw [runSetSpsr, e]; rfl⟩)))
    · exact .inr (.inr (.inr (.inr (.inl ⟨spsrCell s.mode, v, hv, by rw [runSetSpsr, e]; rfl, .inr (.inr ⟨rfl, rfl⟩)⟩))))
  | branch buffer =>
    obtain ⟨i, hi⟩ := runInstruction_next h
    exact .inr (.inr (.inr (.inr (.inr ⟨.branch, buffer, i, rfl, hi⟩))))
  | bx buffer =>
    obtain ⟨i, hi⟩ := runInstruction_next h
    exact .inr (.inr (.inr (.inr (.inr ⟨.bx, buffer, i, rfl, hi⟩))))

/-- A step that answers a next state took a transaction from the queue and ran it on the rest. -/
theorem step_next {s t : State} (h : step s = .next t) :
    ∃ tr rest, s.pending = tr :: rest ∧ runTransaction tr { s with pending := rest } = .next t := by
  cases hp : s.pending with
  | nil => rw [step_nil s hp] at h; cases h
  | cons tr rest => exact ⟨tr, rest, rfl, by rw [← step_cons s hp]; exact h⟩

end Sys2Proof.Machine
end

