-- ==== Sys2Proof/Laws/PerInstr.lean ====
section
/-! SUPPORT. Facts about every instruction as a term of Syntax.lean, one lemma per constructor. -/

namespace Sys2Proof.Laws

/-- The encoded word with its operand bits zero: R81's upper bits, bit 24 of the opcode among them. -/
def upperNumber : Instr → Nat
  | .b _ => 0xEA000000
  | .bl _ => 0xEB000000
  | .bx _ _ => 0xE12FFF00

/-- The operand bits of the encoded word, as a number (R72, R73). -/
def operandNumber : Instr → Nat
  | .b f => f.toNat
  | .bl f => f.toNat
  | .bx operation sourceRegister => 16 * operation + sourceRegister

/-- How far the operand bits reach: 24 bits in B and BL, 5 in BX. -/
def operandSpan : Instr → Nat
  | .b _ => 0x1000000
  | .bl _ => 0x1000000
  | .bx _ _ => 0x20

/-- The encoded word is R81's upper bits with the operands in the low bits. -/
def TableRow.Statement (i : Instr) : Prop :=
  i.WellFormed → (encode i).toNat = upperNumber i + operandNumber i ∧ operandNumber i < operandSpan i

theorem TableRow.b (f : BitVec 24) : TableRow.Statement (.b f) := by
  intro _
  have hf := f.isLt
  simp only [encode, upperNumber, operandSpan, operandNumber, BitVec.toNat_add, BitVec.toNat_setWidth, BitVec.reduceToNat]
  omega

theorem TableRow.bl (f : BitVec 24) : TableRow.Statement (.bl f) := by
  intro _
  have hf := f.isLt
  simp only [encode, upperNumber, operandSpan, operandNumber, BitVec.toNat_add, BitVec.toNat_setWidth, BitVec.reduceToNat]
  omega

theorem TableRow.bx (operation sourceRegister : Nat) : TableRow.Statement (.bx operation sourceRegister) := by
  intro h
  have h : operation < 2 ∧ sourceRegister < 16 := by
    simpa [Instr.WellFormed, Instr.wf, Nat.lt_succ_iff] using h
  simp only [encode, upperNumber, operandSpan, operandNumber, BitVec.toNat_add, BitVec.toNat_mul, BitVec.toNat_ofNat,
    BitVec.reduceToNat]
  omega

end Sys2Proof.Laws
end

