-- ==== Sys2Proof/Tests/Slice0.lean ====
section
/-! SUPPORT. The model's own tests. Expected results come from 95_test_vectors.md or from the rule named, never from the model. The
theorems named witness_<statement> show states and operands that meet the hypotheses of that statement, one per clause. -/

namespace Sys2Proof.Tests

open Sys2Proof.Machine

/-- The state a step or a meaning answers. -/
def nextOf : Host.Outcome State Fault Refusal → Option State
  | .next t => some t
  | _ => none

/-- After reset (direct boot, mode SYS), with transactions presented. -/
def presenting (ts : List Transaction) : State := { State.reset with pending := ts }

/-- After reset in another mode, with one cell holding a value. -/
def holding (m : CpuMode) (c : Cell) (v : Word) : State := { State.reset with mode := m }.setCell c v

/-- The word a cell holds afterwards. -/
def cellAfter (o : Host.Outcome State Fault Refusal) (c : Cell) : Option Word := (nextOf o).map (·.rf.read c)

/-- The outputs afterwards. -/
def outAfter (o : Host.Outcome State Fault Refusal) : Option PortOut := (nextOf o).map (·.out)

/-! ### WellFormed refuses ill-formed terms (R161, R52) -/

theorem test_wf_refuses_operation_2 : (Instr.bx 2 0).wf = false := by decide
theorem test_wf_refuses_register_16 : (Instr.bx 0 16).wf = false := by decide
theorem test_wf_accepts_the_largest : (Instr.bx 1 15).wf = true ∧ (Instr.b 0xFFFFFF).wf = true ∧ (Instr.bl 0xFFFFFF).wf = true := by
  decide
theorem test_wf_refuses_short_branch_buffer : (Transaction.branch [0, 0, 0]).wf = false := by decide
theorem test_wf_refuses_long_bx_buffer : (Transaction.bx [0, 0, 0, 0, 0]).wf = false := by decide

/-! ### Decoding, words written out bit by bit from R72 and R73 -/

/-- `xxxxxxx0 oooooooo oooooooo oooooooo` (R72). -/
theorem test_decode_b_bits :
    decodeWord .branch 0b1110101_0_100000000000000000000001 = .b 0b100000000000000000000001 := by decide
/-- `xxxxxxx1 oooooooo oooooooo oooooooo` (R72). -/
theorem test_decode_bl_bits :
    decodeWord .branch 0b0000000_1_011111111111111111111110 = .bl 0b011111111111111111111110 := by decide
/-- `xxxxxxxx xxxxxxxx xxxxxxxx xxxprrrr` (R73). -/
theorem test_decode_bx_bits :
    decodeWord .bx 0b111000010010111111111111000_1_0011 = .bx 1 3 ∧
    decodeWord .bx 0b111111111111111111111111111_0_1110 = .bx 0 14 := by decide
/-- V-D4: the byte order, at both entry points. -/
theorem test_decode_byte_order :
    decode .branch [0x78, 0x56, 0x34, 0x12] = .ok (.b 0x345678) ∧ decode .bx [0x78, 0x56, 0x34, 0x12] = .ok (.bx 1 8) :=
  ⟨rfl, rfl⟩
/-- V-D3 as BRANCH: the class of the word is not checked. -/
theorem test_decode_does_not_check_the_class : decode .branch [0x13, 0xFF, 0x2F, 0xE1] = .ok (.bl 0x2FFF13) := rfl
/-- R52. -/
theorem test_decode_short_buffer : decode .branch [0x2E, 0x00, 0x00] = .error (.badLength 3) := rfl
/-- R81. -/
theorem test_encode_words :
    encode (.b 0x2E) = 0xEA00002E ∧ encode (.bl 2) = 0xEB000002 ∧ encode (.bx 1 14) = 0xE12FFF1E := by decide
/-- The opcode table's rows, BX by R80's pattern. -/
theorem test_table_words :
    decodeTableWord 32 0x00000000 = some (.b 0) ∧ decodeTableWord 32 0x01000000 = some (.bl 0) ∧
    decodeTableWord 32 0x012FFF13 = some (.bx 1 3) := by decide
theorem test_table_words_run_after_reset :
    step (State.reset.withFetchWord 32 0xEA00002E) = exec (.b 0x2E) State.reset ∧
    step (State.reset.withFetchWord 32 0xEB000002) = exec (.bl 2) State.reset ∧
    step (State.reset.withFetchWord 32 0xE12FFF1E) = exec (.bx 1 14) State.reset := ⟨rfl, rfl, rfl⟩

/-! ### Offsets and instructions -/

/-- V-O3, V-O4, V-O6, V-O7: 4 * off. -/
theorem test_offsets :
    4 * signedOffset 0x7FFFFF = 0x01FFFFFC ∧ 4 * signedOffset 0x800000 = 0xFE000000 ∧
    4 * signedOffset 0xFFFFFE = 0xFC000008 ∧ 4 * signedOffset 0xFFFFFF = 0xFC000004 := by decide
/-- V-B17. -/
theorem test_b_forward : cellAfter (step (presenting [.branch [0x2E, 0x00, 0x00, 0xEA]])) pcCell = some 0x080000C0 := by decide
/-- V-B6: the ARM "branch to self" word. -/
theorem test_b_backward :
    cellAfter (exec (.b 0xFFFFFE) (holding .sys pcCell 0x08000100)) pcCell = some 0x04000110 := by decide
/-- V-B16: the link goes to the IRQ bank, and the System/User r14 stays. -/
theorem test_bl_link_is_banked :
    cellAfter (exec (.bl 0x10) (holding .irq pcCell 0x08000040)) ⟨.irq, .r14⟩ = some 0x0800008C ∧
    cellAfter (exec (.bl 0x10) (holding .irq pcCell 0x08000040)) ⟨.su, .r14⟩ = some 0 := by decide
/-- V-B11: the link wraps on its own. -/
theorem test_bl_link_wraps :
    cellAfter (exec (.bl 0) (holding .sys pcCell 0xFFFFFFF4)) pcCell = some 0xFFFFFFFC ∧
    cellAfter (exec (.bl 0) (holding .sys pcCell 0xFFFFFFF4)) ⟨.su, .r14⟩ = some 0 := by decide
/-- V-X3: the banked source register, its bank's r14 kept. -/
theorem test_bx_banked_source :
    cellAfter (exec (.bx 1 14) (holding .irq ⟨.irq, .r14⟩ 0x08000ABC)) pcCell = some 0x08000ABC ∧
    cellAfter (exec (.bx 1 14) (holding .irq ⟨.irq, .r14⟩ 0x08000ABC)) ⟨.irq, .r14⟩ = some 0x08000ABC := by decide
/-- V-X1: bit 0 is kept and `imode` stays ARM. -/
theorem test_bx_does_not_exchange :
    cellAfter (exec (.bx 1 3) (holding .sys ⟨.su, .r3⟩ 0x08000101)) pcCell = some 0x08000101 ∧
    (nextOf (exec (.bx 1 3) (holding .sys ⟨.su, .r3⟩ 0x08000101))).map (·.imode) = some .arm := by decide

/-! ### Port transactions -/

/-- V-A2, V-A9. -/
theorem test_getreg :
    outAfter (runTransaction (.getReg 13) { State.reset with mode := .svc }) = some ⟨.word 0x03007FE0, false⟩ ∧
    outAfter (runTransaction (.getReg 16) State.reset) = some ⟨.word 0, true⟩ := by decide
/-- V-A8: r15 raw; V-A10: an invalid write. -/
theorem test_setreg :
    cellAfter (runTransaction (.setReg 15 0x12345679) State.reset) pcCell = some 0x12345679 ∧
    nextOf (runTransaction (.setReg 16 1) State.reset) = some { State.reset with out := ⟨.none, true⟩ } := by decide
/-- V-S2: a CPSR write does not change the mode. -/
theorem test_setcpsr :
    nextOf (runTransaction (.setCpsr 0xF00000D3) State.reset) = some (holding .sys cpsrCell 0xF00000D3) := by decide
/-- V-S3, V-S5. -/
theorem test_spsr :
    outAfter (runTransaction .getSpsr State.reset) = some ⟨.word 0, true⟩ ∧
    cellAfter (runTransaction (.setSpsr 0x1F) { State.reset with mode := .svc }) ⟨.svc, .spsr⟩ = some 0x1F := by decide
/-- V-M1, V-M3. -/
theorem test_modes :
    outAfter (runTransaction .getMode State.reset) = some ⟨.mode .sys, false⟩ ∧
    outAfter (runTransaction .getImode State.reset) = some ⟨.imode .arm, false⟩ ∧
    (nextOf (runTransaction (.setMode .fiq) { State.reset with mode := .usr })).map (·.mode) = some .fiq := by decide
/-- V-R2. -/
theorem test_reset_bios :
    nextOf (runTransaction (.reset true) State.reset) =
      some { State.reset with rf := RegFile.biosBoot, mode := .svc } := by decide
/-- R205: RESET gives the same state whatever the power-on values are. -/
theorem test_reset_from_power_on : step (State.powerOn [.reset false]) = .next State.reset := rfl
/-- R9: with no transaction there is no step. -/
theorem test_no_transaction : step State.reset = .fault .noTransaction := rfl

/-! ### Witnesses: the hypotheses of the statements can be met -/

theorem witness_OnlyFourByteBuffersGetAStep :
    ([0x2E, 0, 0, 0xEA] : List Byte).length = 4 ∧ ([0x2E, 0, 0] : List Byte).length ≠ 4 ∧ ([0, 0, 0, 0, 0] : List Byte).length ≠ 4 := by
  decide
theorem witness_UnexaminedBitsChangeNothing :
    ((0xEA000000 : Word) ≠ 0 ∧ (0xEA000000 : Word) &&& 0x01FFFFFF = 0 &&& 0x01FFFFFF) ∧
    ((0xFFFFFFE0 : Word) ≠ 0 ∧ (0xFFFFFFE0 : Word) &&& 0x0000001F = 0 &&& 0x0000001F) := by decide
theorem witness_DecodeOfEncodeIsTheInstruction :
    (Instr.b 0x800000).WellFormed ∧ (Instr.bl 0xFFFFFF).WellFormed ∧ (Instr.bx 1 15).WellFormed := by decide
theorem witness_OffsetWithBit23SetIsNegated :
    (0x7FFFFF : BitVec 24).getLsbD 23 = false ∧ (0x800000 : BitVec 24).getLsbD 23 = true := by decide
theorem witness_NegationIsNotSignExtension :
    (0x800000 : BitVec 24).getLsbD 23 = true ∧ (0xFFFFFF : BitVec 24).getLsbD 23 = true ∧
    (0x800000 : BitVec 24).toNat < (0xFFFFFF : BitVec 24).toNat ∧ (0x7FFFFF : BitVec 24).getLsbD 23 = false := by decide
theorem witness_BranchArithmeticWrapsAt32Bits :
    (0x7FFFFF : BitVec 24).getLsbD 23 = false ∧ (0x800000 : BitVec 24).getLsbD 23 = true := by decide
/-- The six mode clauses. -/
theorem witness_BranchWithLinkWritesTheUpdatedPcPlus4 :
    (State.reset.mode = .usr ∨ State.reset.mode = .sys) ∧
    ({ State.reset with mode := .fiq } : State).mode = .fiq ∧ ({ State.reset with mode := .svc } : State).mode = .svc ∧
    ({ State.reset with mode := .abt } : State).mode = .abt ∧ ({ State.reset with mode := .irq } : State).mode = .irq ∧
    ({ State.reset with mode := .und } : State).mode = .und := by decide
theorem witness_BranchExchangeCopiesTheSourceRegister : 1 < 2 ∧ 15 < 16 := by decide
theorem witness_BranchExchangeLinkArmIsDead :
    decodeWord .bx 0xE12FFF13 = .bx 1 3 ∧ 1 < 2 ∧ 3 < 16 ∧
    nextOf (exec (.bx 1 3) State.reset) = some (State.reset.setCell pcCell 0) := by decide
theorem witness_BranchExchangeFromR15ChangesNothing : 1 < 2 := by decide
theorem witness_InstructionsWriteNoStatusAndRaiseNothing :
    (Instr.b 0).WellFormed ∧ (Instr.bl 0).WellFormed ∧ (Instr.bx 0 14).WellFormed := by decide
theorem witness_StepRunsTheDecodedInstruction :
    (presenting [.branch [0x2E, 0, 0, 0xEA]]).pending = [presentAt .branch [0x2E, 0, 0, 0xEA]] ∧
    decode .branch [0x2E, 0, 0, 0xEA] = .ok (.b 0x2E) ∧ (Instr.b 0x2E).WellFormed := ⟨rfl, rfl, rfl⟩
theorem witness_StepStopsOnlyOutsideTheContract :
    (∃ t, step (presenting [.getMode]) = .next t) ∧ step (presenting []) = .fault .noTransaction ∧
    step (presenting [.bx [0, 0, 0]]) = .refused (.bufferLength 3) := ⟨⟨_, rfl⟩, rfl, rfl⟩
theorem witness_BanksHoldExactlyTheirSlots : Bank.svc ∈ [Bank.svc, .abt, .irq, .und] ∧ Bank.und ∈ [Bank.svc, .abt, .irq, .und] := by
  decide
theorem witness_BankAccessOutsideTheSlotSetIsInvalid :
    (Cell.mk .und .spsr).valid = true ∧ (Cell.mk .su .spsr).valid = false := by decide
theorem witness_ResolveIsTheMultiplexerTable : CpuMode.fiq = .fiq ∧ CpuMode.svc ≠ .fiq ∧ 16 ≤ 16 := by decide
theorem witness_RegisterReadAnswersTheResolvedCell : resolve .irq 14 = some ⟨.irq, .r14⟩ ∧ 16 ≤ 16 := by decide
theorem witness_RegisterWriteChangesExactlyTheResolvedCell : 15 < 16 ∧ 16 ≤ 16 := by decide
/-- Clauses (a) at 7 and 15, (b) at 8 and 12 both ways, (c) at 13 and 14 both ways, (d) at 16. -/
theorem witness_BankedRegistersAreIsolated :
    (7 ≤ 7 ∨ 7 = 15) ∧ (15 ≤ 7 ∨ 15 = 15) ∧
    ((8 ≤ 8 ∧ 8 ≤ 12) ∧ (CpuMode.fiq = .fiq ↔ CpuMode.irq ≠ .fiq)) ∧
    ((8 ≤ 12 ∧ 12 ≤ 12) ∧ (CpuMode.usr = .fiq ↔ CpuMode.svc = .fiq)) ∧
    ((13 = 13 ∨ 13 = 14) ∧ bankOf .svc ≠ bankOf .abt) ∧ ((14 = 13 ∨ 14 = 14) ∧ bankOf .usr = bankOf .sys) ∧ 16 ≤ 16 := by decide
theorem witness_SpsrAccessReachesTheCurrentBank :
    (CpuMode.und ≠ .usr ∧ CpuMode.und ≠ .sys) ∧ (CpuMode.usr = .usr ∨ CpuMode.usr = .sys) ∧
    (CpuMode.sys = .usr ∨ CpuMode.sys = .sys) := by decide
theorem witness_OnlyResetAndTheirSettersChangeTheModes :
    (∃ t, step (presenting [.setMode .irq]) = .next t ∧ t.mode ≠ (presenting [.setMode .irq]).mode) ∧
    (∃ t, step (presenting [.setImode .thumb]) = .next t ∧ t.imode ≠ (presenting [.setImode .thumb]).imode) :=
  ⟨⟨_, rfl, by decide⟩, ⟨_, rfl, by decide⟩⟩
theorem witness_OnlyBranchesR15WritesAndResetMoveThePc :
    ∃ t, step (presenting [.branch [0, 0, 0, 0]]) = .next t ∧ t.pc ≠ (presenting [.branch [0, 0, 0, 0]]).pc := ⟨_, rfl, by decide⟩
theorem witness_OnlyTheirSettersAndResetChangeTheStatusWords :
    (∃ t, step (presenting [.setCpsr 1]) = .next t ∧ t.rf.read cpsrCell ≠ (presenting [.setCpsr 1]).rf.read cpsrCell) ∧
    (∃ t, step { presenting [.setSpsr 1] with mode := .abt } = .next t ∧
      t.rf.read ⟨.abt, .spsr⟩ ≠ (presenting [.setSpsr 1]).rf.read ⟨.abt, .spsr⟩) := ⟨⟨_, rfl, by decide⟩, ⟨_, rfl, by decide⟩⟩
/-- A write that raises, and for each writing clause the named cell: the last register number and the first invalid one, CPSR, an SPSR
and the SPSR that USR does not have. -/
theorem witness_AccessTransactionsWriteAtMostOneElement :
    (∃ t, runTransaction (.setReg 99 5) State.reset = .next t ∧ t.out.err = true) ∧
    ((∃ t, runTransaction (.rfSet .irq 14 5) State.reset = .next t) ∧ resolve .irq 14 = some ⟨.irq, .r14⟩) ∧
    ((∃ t, runTransaction (.setReg 15 5) State.reset = .next t) ∧ resolve State.reset.mode 15 = some pcCell) ∧
    ((∃ t, runTransaction (.setReg 16 5) State.reset = .next t) ∧ resolve State.reset.mode 16 = none) ∧
    (∃ t, runTransaction (.setCpsr 5) State.reset = .next t) ∧
    ((∃ t, runTransaction (.setSpsr 5) { State.reset with mode := .und } = .next t) ∧ (spsrCell .und).valid = true) ∧
    ((∃ t, runTransaction (.setSpsr 5) { State.reset with mode := .usr } = .next t) ∧ (spsrCell .usr).valid = false) :=
  ⟨⟨_, rfl, rfl⟩, ⟨⟨_, rfl⟩, rfl⟩, ⟨⟨_, rfl⟩, rfl⟩, ⟨⟨_, rfl⟩, rfl⟩, ⟨_, rfl⟩, ⟨⟨_, rfl⟩, rfl⟩, ⟨⟨_, rfl⟩, rfl⟩⟩
theorem witness_ErrIsRaisedExactlyWhenListed :
    (∃ t, runTransaction (.rfGet .irq 99) State.reset = .next t ∧ t.out.err = true) ∧
    (∃ t, runTransaction (.rfGet .irq 15) State.reset = .next t ∧ t.out.err = false) := ⟨⟨_, rfl, rfl⟩, ⟨_, rfl, rfl⟩⟩
theorem witness_ResetWritesTheBootTable :
    Slot.r12 ∈ [Slot.r0, .r1, .r2, .r3, .r4, .r5, .r6, .r7, .r8, .r9, .r10, .r11, .r12] ∧ Bank.fiq ≠ Bank.su ∧
    false = false ∧ true = true := by decide
/-- Both arguments of RESET, from two different states. -/
theorem witness_ResetIsIndependentOfTheEarlierState :
    State.reset ≠ { State.reset with mode := .irq } ∧
    nextOf (runTransaction (.reset false) { State.reset with mode := .irq }) = some State.reset ∧
    (nextOf (runTransaction (.reset true) { State.reset with mode := .irq })).map (·.mode) = some .svc := by decide
theorem witness_InvalidRegisterAccessTakesNoTrap :
    ∃ t, step (presenting [.getSpsr]) = .next t ∧ t.out.err = true := ⟨_, rfl, rfl⟩
theorem witness_UserAndSystemAreIndistinguishable :
    EqualUpToUserSystem (presenting [.getReg 13]) { presenting [.getReg 13] with mode := .usr } ∧
    (presenting [.getReg 13]).pending.head? ≠ some .getMode := ⟨⟨rfl, rfl, rfl, rfl, by decide⟩, by decide⟩
theorem witness_ImodeIsSeenOnlyByGetImode :
    EqualButImode (presenting [.bx [0, 0, 0, 0]]) { presenting [.bx [0, 0, 0, 0]] with imode := .thumb } ∧
    (presenting [.bx [0, 0, 0, 0]]).pending.head? ≠ some .getImode := ⟨⟨rfl, rfl, rfl, rfl⟩, by decide⟩
theorem witness_StatusWordsAreSeenOnlyByTheirReads :
    EqualButStatus (presenting [.getMode]) ((presenting [.getMode]).setCell cpsrCell 0xD3) ∧
    (presenting [.getMode]).pending.head? ≠ some .getCpsr ∧ (presenting [.getMode]).pending.head? ≠ some .getSpsr :=
  ⟨⟨by rintro ⟨B, k⟩ - h1 h2; cases B <;> cases k <;> first | rfl | exact absurd rfl h1, rfl, rfl, rfl, rfl⟩, by decide, by decide⟩
theorem witness_EveryStepKeepsInv :
    Inv (presenting [.getReg 16, .branch [0, 0, 0, 0]]) ∧ ∃ t, step (presenting [.getReg 16, .branch [0, 0, 0, 0]]) = .next t :=
  ⟨⟨by decide, by decide⟩, _, rfl⟩
theorem witness_RunsUnderTheContractAreNeverStopped : (presenting [.setMode .usr, .bx [0x1E, 0xFF, 0x2F, 0xE1]]).contract = true := by
  decide

end Sys2Proof.Tests
end

section
/-! The slot sets of the six banks (R23): one law per shape of bank, and O22 from them. -/

namespace Sys2Proof.Machine

theorem Bank.su_valid_iff (k : Slot) : Bank.su.valid k = true ↔ k ≠ .spsr := by
  cases k <;> decide

theorem Bank.fiq_valid_iff (k : Slot) :
    Bank.fiq.valid k = true ↔ k ∈ [Slot.r8, .r9, .r10, .r11, .r12, .r13, .r14, .spsr] := by
  cases k <;> decide

/-- The four banks other than SU and FIQ have the same slots: two banked registers and the saved status word. -/
theorem Bank.valid_iff_of_ne_su_of_ne_fiq {B : Bank} (hsu : B ≠ .su) (hfiq : B ≠ .fiq) (k : Slot) :
    B.valid k = true ↔ k ∈ [Slot.r13, .r14, .spsr] := by
  cases B with
  | su => exact absurd rfl hsu
  | fiq => exact absurd rfl hfiq
  | svc | abt | irq | und => cases k <;> decide

/-- Settles O22: the slot sets of R23, bank by bank. -/
theorem banksHoldExactlyTheirSlots : Obligations.BanksHoldExactlyTheirSlots := by
  intro k
  refine ⟨Bank.su_valid_iff k, Bank.fiq_valid_iff k, fun B hB => ?_⟩
  have hsu : B ≠ .su := by rintro rfl; simp at hB
  have hfiq : B ≠ .fiq := by rintro rfl; simp at hB
  exact Bank.valid_iff_of_ne_su_of_ne_fiq hsu hfiq k

end Sys2Proof.Machine
end

section
/-! The little-endian word of an instruction buffer (R51), and O1. -/

namespace Sys2Proof

/-- An appended vector as a number: the upper part counts in units of the lower part's span. -/
theorem toNat_append_eq_mul_add {m n : Nat} (x : BitVec m) (y : BitVec n) :
    (x ++ y).toNat = x.toNat * 2 ^ n + y.toNat := by
  rw [BitVec.toNat_append, ← Nat.shiftLeft_add_eq_or_of_lt y.isLt, Nat.shiftLeft_eq]

/-- The sum of R51. -/
theorem wordOfBytes_toNat (b0 b1 b2 b3 : Byte) :
    (wordOfBytes b0 b1 b2 b3).toNat = b0.toNat + b1.toNat * 2 ^ 8 + b2.toNat * 2 ^ 16 + b3.toNat * 2 ^ 24 := by
  simp only [wordOfBytes, toNat_append_eq_mul_add]
  omega

/-- Slicing undoes assembly: each byte is a digit, base 256, of the sum of R51. -/
theorem bytesOfWord_wordOfBytes (b0 b1 b2 b3 : Byte) : bytesOfWord (wordOfBytes b0 b1 b2 b3) = [b0, b1, b2, b3] := by
  simp only [bytesOfWord, List.cons.injEq, and_true, BitVec.toNat_eq, BitVec.extractLsb'_toNat, wordOfBytes_toNat,
    Nat.shiftRight_eq_div_pow]
  omega

/-- Settles O1: the sum of R51, its digits, and the decoder's use of that word. -/
theorem instructionBufferIsLittleEndian : Obligations.InstructionBufferIsLittleEndian := fun b0 b1 b2 b3 =>
  ⟨wordOfBytes_toNat b0 b1 b2 b3, bytesOfWord_wordOfBytes b0 b1 b2 b3, fun e => Machine.decode_four e b0 b1 b2 b3⟩

end Sys2Proof
end

section
/-! The driver's queue is no part of what a transaction reads or writes (R59), and O21 from it: replacing the queue commutes with
every transaction rule. -/

namespace Sys2Proof.Machine

/-- An outcome with the queue of its next state replaced; a stop as it stands. -/
def outcomeWithPending (q : List Transaction) : Host.Outcome State Fault Refusal → Host.Outcome State Fault Refusal
  | .next t => .next { t with pending := q }
  | .fault r => .fault r
  | .refused r => .refused r

section QueueReplaced

variable (s : State) (q : List Transaction)

theorem rfSet_answer_withPending (m : CpuMode) (n : Nat) (v : Word) :
    (rfSet { s with pending := q } m n v).answer = { (rfSet s m n v).answer with pending := q } := by
  cases hc : resolve m n with
  | none => simp only [rfSet, hc]; rfl
  | some c => rw [rfSet_of_resolve _ v hc, rfSet_of_resolve _ v hc]; rfl

theorem setSpsr_answer_withPending (v : Word) :
    (setSpsr { s with pending := q } v).answer = { (setSpsr s v).answer with pending := q } := by
  obtain ⟨hm, h⟩ | ⟨hm, hv, h⟩ := setSpsr_cases s v
  · rw [h, setSpsr, if_pos hm]; rfl
  · rw [h, setSpsr, if_neg (not_or.mpr hm), bankSet_valid _ v hv]; rfl

theorem exec_withPending {i : Instr} (hi : i.wf = true) :
    exec i { s with pending := q } = outcomeWithPending q (exec i s) := by
  cases i with
  | b f => rfl
  | bl f => rw [execBl_eq, execBl_eq]; rfl
  | bx operation n =>
    simp only [Instr.wf, Bool.and_eq_true, decide_eq_true_eq] at hi
    obtain ⟨hop, hn⟩ := hi
    obtain ⟨c, hc, -⟩ := resolve_some_of_lt s.mode hn
    rw [execBx_eq s hop hc, execBx_eq { s with pending := q } hop hc]; rfl

theorem runInstruction_withPending (e : EntryPoint) (buffer : List Byte) :
    runInstruction e buffer { s with pending := q } = outcomeWithPending q (runInstruction e buffer s) := by
  obtain ⟨-, w, hw⟩ | ⟨hl, -⟩ := decode_cases e buffer
  · rw [runInstruction_ok _ hw, runInstruction_ok _ hw, exec_withPending s q (decodeWord_wf e w)]
  · rw [runInstruction_badLength _ hl, runInstruction_badLength _ hl]; rfl

/-- The queue is neither read nor written by a transaction: replacing it before is replacing it after. -/
theorem runTransaction_withPending (tr : Transaction) :
    runTransaction tr { s with pending := q } = outcomeWithPending q (runTransaction tr s) := by
  cases tr with
  | reset _ | setMode _ | setImode _ | setCpsr _ => rfl
  | getReg _ | rfGet _ _ | getCpsr | getSpsr | getMode | getImode => rfl
  | setReg n v => exact congrArg Host.Outcome.next (rfSet_answer_withPending s q s.mode n v)
  | rfSet m n v => exact congrArg Host.Outcome.next (rfSet_answer_withPending s q m n v)
  | setSpsr v => exact congrArg Host.Outcome.next (setSpsr_answer_withPending s q v)
  | branch buffer => exact runInstruction_withPending s q .branch buffer
  | bx buffer => exact runInstruction_withPending s q .bx buffer

end QueueReplaced

/-- A run over a presented sequence is the fold of its rules, by induction on the sequence. -/
theorem run_eq_foldTransactions (s : State) (ts later : List Transaction) :
    Sys2Proof.core.run ts.length { s with pending := ts ++ later } = foldTransactions ts { s with pending := later } := by
  induction ts generalizing s with
  | nil => rfl
  | cons t rest ih =>
    have hstep : Sys2Proof.core.step { s with pending := t :: rest ++ later } =
        outcomeWithPending (rest ++ later) (runTransaction t s) :=
      (step_cons { s with pending := t :: (rest ++ later) } rfl).trans (runTransaction_withPending s (rest ++ later) t)
    simp only [List.length_cons, Host.Core.run, hstep, foldTransactions, runTransaction_withPending s later t]
    cases runTransaction t s with
    | next u => exact ih u
    | fault r => rfl
    | refused r => rfl

/-- Settles O21: a step takes the head of the queue, and its rule neither reads nor writes the rest. -/
theorem stepsAreTheFoldOfTheTransactions : Obligations.StepsAreTheFoldOfTheTransactions :=
  fun ts later s => run_eq_foldTransactions s ts later

end Sys2Proof.Machine
end

section
/-! What each entry point reads from a word (R72 to R74), and O3. -/

namespace Sys2Proof

/-- R74 writes a field as a shift and a mask, the decoder as a slice: the two are one number. -/
theorem extractLsb'_toNat_eq_shiftRight_and (w : Word) (k n : Nat) (hn : n ≤ 32) :
    (w.extractLsb' k n).toNat = ((w >>> k) &&& BitVec.ofNat 32 (2 ^ n - 1)).toNat := by
  have hmask : 2 ^ n - 1 < 2 ^ 32 :=
    Nat.sub_one_lt_of_le (Nat.two_pow_pos n) (Nat.pow_le_pow_right (by decide) hn)
  rw [BitVec.extractLsb'_toNat, BitVec.toNat_and, BitVec.toNat_ushiftRight, BitVec.toNat_ofNat, Nat.mod_eq_of_lt hmask,
    Nat.and_two_pow_sub_one_eq_mod]

theorem fieldOffset_toNat (w : Word) : (fieldOffset w).toNat = (w &&& 0x00FFFFFF).toNat :=
  extractLsb'_toNat_eq_shiftRight_and w 0 24 (by decide)

theorem fieldOperation_eq (w : Word) : fieldOperation w = ((w >>> 4) &&& 1).toNat :=
  extractLsb'_toNat_eq_shiftRight_and w 4 1 (by decide)

theorem fieldSourceRegister_eq (w : Word) : fieldSourceRegister w = (w &&& 0xF).toNat :=
  extractLsb'_toNat_eq_shiftRight_and w 0 4 (by decide)

theorem fieldOffset_eq_iff (w : Word) (f : BitVec 24) : fieldOffset w = f ↔ f.setWidth 32 = w &&& 0x00FFFFFF := by
  rw [BitVec.toNat_eq, BitVec.toNat_eq, fieldOffset_toNat, BitVec.toNat_setWidth_of_le (by decide), eq_comm]

theorem shiftRight_and_one_eq_fieldOpcode (w : Word) : (w >>> 24) &&& 1 = (BitVec.ofBool (fieldOpcode w)).setWidth 32 := by
  simp [BitVec.and_one_eq_setWidth_ofBool_getLsbD, fieldOpcode]

theorem fieldOpcode_eq_false_iff (w : Word) : fieldOpcode w = false ↔ (w >>> 24) &&& 1 = 0 := by
  rw [shiftRight_and_one_eq_fieldOpcode]
  cases fieldOpcode w <;> decide

theorem fieldOpcode_eq_true_iff (w : Word) : fieldOpcode w = true ↔ (w >>> 24) &&& 1 = 1 := by
  rw [shiftRight_and_one_eq_fieldOpcode]
  cases fieldOpcode w <;> decide

theorem decodeWord_branch (w : Word) :
    decodeWord .branch w = if fieldOpcode w then .bl (fieldOffset w) else .b (fieldOffset w) := rfl

theorem decodeWord_bx (w : Word) : decodeWord .bx w = .bx (fieldOperation w) (fieldSourceRegister w) := rfl

theorem decodeWord_branch_eq_b_iff (w : Word) (f : BitVec 24) :
    decodeWord .branch w = .b f ↔ fieldOpcode w = false ∧ fieldOffset w = f := by
  rw [decodeWord_branch]
  cases fieldOpcode w <;> simp

theorem decodeWord_branch_eq_bl_iff (w : Word) (f : BitVec 24) :
    decodeWord .branch w = .bl f ↔ fieldOpcode w = true ∧ fieldOffset w = f := by
  rw [decodeWord_branch]
  cases fieldOpcode w <;> simp

theorem decodeWord_branch_ne_bx (w : Word) (op n : Nat) : decodeWord .branch w ≠ .bx op n := by
  rw [decodeWord_branch]
  cases fieldOpcode w <;> simp

theorem decodeWord_bx_eq_bx_iff (w : Word) (op n : Nat) :
    decodeWord .bx w = .bx op n ↔ op = fieldOperation w ∧ n = fieldSourceRegister w := by
  rw [decodeWord_bx, Instr.bx.injEq, eq_comm, @eq_comm _ n]

/-- Settles O3: the decoder selects by the opcode bit, and each slice is the shift and mask of R74. -/
theorem decodeReadsExactlyTheFormatFields : Obligations.DecodeReadsExactlyTheFormatFields := by
  intro w
  refine ⟨fun f => ?_, fun f => ?_, decodeWord_branch_ne_bx w, fun op n => ?_, fun f => ⟨nofun, nofun⟩⟩
  · rw [decodeWord_branch_eq_b_iff, fieldOpcode_eq_false_iff, fieldOffset_eq_iff]
  · rw [decodeWord_branch_eq_bl_iff, fieldOpcode_eq_true_iff, fieldOffset_eq_iff]
  · rw [decodeWord_bx_eq_bx_iff, fieldOperation_eq, fieldSourceRegister_eq]

end Sys2Proof
end

section
/-! The sign adjustment of the branch offset as a number (R75), and O8. -/

namespace Sys2Proof.Machine

theorem signedOffset_of_bit23_clear {f : BitVec 24} (h : f.getLsbD 23 = false) : signedOffset f = f.setWidth 32 :=
  if_neg (ne_true_of_eq_false h)

theorem signedOffset_of_bit23_set {f : BitVec 24} (h : f.getLsbD 23 = true) : signedOffset f = 0 - f.setWidth 32 :=
  if_pos h

theorem two_pow_23_le_of_bit23_set {f : BitVec 24} (h : f.getLsbD 23 = true) : 2 ^ 23 ≤ f.toNat :=
  Nat.ge_two_pow_of_testBit h

/-- Settles O8: a field with bit 23 set is not 0, so its negation does not wrap back to 0. -/
theorem offsetWithBit23SetIsNegated : Obligations.OffsetWithBit23SetIsNegated := by
  intro f
  constructor
  · intro h
    rw [signedOffset_of_bit23_clear h, BitVec.toNat_setWidth_of_le (by decide)]
  · intro h
    have hf := two_pow_23_le_of_bit23_set h
    rw [signedOffset_of_bit23_set h]
    bv_omega

end Sys2Proof.Machine
end

section
/-! The frame rule of the access transactions (R117), and O37: from the list of what a transaction can do. -/

namespace Sys2Proof.Machine

/-- The state after a write of one existing cell differs from the state before in no other cell. -/
theorem sameCellsBut_setCell_answer (s : State) {c : Cell} (hc : c.valid = true) (v : Word) (r : PortResult) (e : Bool) :
    SameCellsBut [c] s ((s.setCell c v).answer r e) := fun c' _ hne =>
  RegFile.read_write_other s.rf c c' v (List.ne_of_not_mem_cons hne) hc

/-- An answer that replaces only the outputs is within the bounds of every transaction, the writing ones included. -/
theorem writesAtMost_answer (tr : Transaction) (s : State) (r : PortResult) (e : Bool) : WritesAtMost tr s (s.answer r e) := by
  cases tr with
  | rfSet _ _ _ | setReg _ _ | setCpsr _ | setSpsr _ => exact ⟨rfl, rfl, fun _ _ _ => rfl⟩
  | setMode _ | setImode _ => exact ⟨rfl, rfl⟩
  | rfGet _ _ | getReg _ | getCpsr | getSpsr | getMode | getImode => exact ⟨rfl, rfl, rfl⟩
  | reset _ | branch _ | bx _ => trivial

/-- A transaction that gets a step writes at most the element its rule names. -/
theorem runTransaction_writesAtMost {tr : Transaction} {s t : State} (h : runTransaction tr s = .next t) :
    WritesAtMost tr s t := by
  obtain ⟨b, rfl, -⟩ | ⟨m, rfl, rfl⟩ | ⟨i, rfl, rfl⟩ | ⟨r, e, rfl⟩ | ⟨c, v, hv, rfl, hname⟩ | ⟨e, buffer, i, rfl, -⟩ :=
    runTransaction_cases h
  · trivial
  · exact ⟨rfl, rfl⟩
  · exact ⟨rfl, rfl⟩
  · exact writesAtMost_answer tr s r e
  · have frame := sameCellsBut_setCell_answer s hv v .none false
    obtain ⟨-, -, ⟨n, rfl, hc⟩ | ⟨m, n, rfl, hc⟩⟩ | ⟨rfl, rfl⟩ | ⟨rfl, rfl⟩ := hname
    · exact ⟨rfl, rfl, by rw [hc]; exact frame⟩
    · exact ⟨rfl, rfl, by rw [hc]; exact frame⟩
    · exact ⟨rfl, rfl, frame⟩
    · exact ⟨rfl, rfl, frame⟩
  · cases e <;> trivial

/-- `err` comes only with an answer from the unchanged state: every transaction that writes something leaves it 0. -/
theorem runTransaction_eq_answer_of_err {tr : Transaction} {s t : State} (h : runTransaction tr s = .next t)
    (herr : t.out.err = true) : ∃ r e, t = s.answer r e := by
  obtain ⟨b, -, rfl⟩ | ⟨m, -, rfl⟩ | ⟨i, -, rfl⟩ | hans | ⟨c, v, -, rfl, -⟩ | ⟨e, buffer, i, -, -, hi, hx⟩ :=
    runTransaction_cases h
  · cases herr
  · cases herr
  · cases herr
  · exact hans
  · cases herr
  · obtain ⟨-, -, -, hout, -⟩ := exec_frame hi hx
    rw [hout] at herr
    cases herr

/-- Settles O37: the named element bounds the write, and an `err` answers from the unchanged state. -/
theorem accessTransactionsWriteAtMostOneElement : Obligations.AccessTransactionsWriteAtMostOneElement := by
  intro tr s t h
  refine ⟨runTransaction_writesAtMost h, fun herr => ?_⟩
  obtain ⟨r, e, rfl⟩ := runTransaction_eq_answer_of_err h herr
  exact ⟨rfl, rfl, rfl⟩

end Sys2Proof.Machine
end

section
/-! The multiplexer's table (R103), and O24. -/

namespace Sys2Proof.Machine

/-- r8 to r12: the one range where the selection asks for the mode itself and not for its bank. -/
theorem resolve_of_eight_le_of_le_twelve (m : CpuMode) {n : Nat} (h8 : 8 ≤ n) (h12 : n ≤ 12) :
    resolve m n = (Slot.ofRegNum n).map (Cell.mk (if m = .fiq then .fiq else .su)) := by
  unfold resolve
  rw [if_neg (by omega), if_pos ⟨h8, h12⟩]

theorem resolve_eight_to_twelve_of_ne_fiq {m : CpuMode} (hm : m ≠ .fiq) {n : Nat} (h8 : 8 ≤ n) (h12 : n ≤ 12) :
    resolve m n = (Slot.ofRegNum n).map (Cell.mk .su) := by
  rw [resolve_of_eight_le_of_le_twelve m h8 h12, if_neg hm]

/-- Settles O24: the entries compute, but for r8 to r12 outside FIQ, which are the range's law, and the numbers from 16 upwards. -/
theorem resolveIsTheMultiplexerTable : Obligations.ResolveIsTheMultiplexerTable := by
  refine ⟨fun m => ?_, rfl, rfl, rfl, rfl, rfl, rfl, rfl⟩
  refine ⟨rfl, rfl, rfl, rfl, rfl, rfl, rfl, rfl, resolve_fifteen m, ?fiq, ?other, rfl, resolve_fourteen m,
    fun _ => resolve_invalid m⟩
  case fiq =>
    rintro rfl
    exact ⟨rfl, rfl, rfl, rfl, rfl⟩
  case other =>
    intro hm
    have shared {n : Nat} := resolve_eight_to_twelve_of_ne_fiq hm (n := n)
    exact ⟨shared (by decide) (by decide), shared (by decide) (by decide), shared (by decide) (by decide),
      shared (by decide) (by decide), shared (by decide) (by decide)⟩

end Sys2Proof.Machine
end

section
/-! What B and BL write and what they leave (R142, R143, R146), and O10 and O11. -/

namespace Sys2Proof.Machine

/-- Frames compose: what neither of two changes touches is the same before the first and after the second. -/
theorem SameCellsBut.trans {cs ds : List Cell} {s t u : State} (hst : SameCellsBut cs s t) (htu : SameCellsBut ds t u) :
    SameCellsBut (cs ++ ds) s u := fun c hv hc =>
  (htu c hv fun hd => hc (List.mem_append_right cs hd)).trans (hst c hv fun hs => hc (List.mem_append_left ds hs))

/-- The whole effect of B, in the model's own names. -/
theorem execB_effect (f : BitVec 24) (s : State) :
    ∃ t, exec (.b f) s = .next t ∧ t.pc = branchTarget s.pc f ∧ SameCellsBut [pcCell] s t ∧ SameModes s t ∧ t.out = .quiet :=
  ⟨_, execB_eq s f, setCell_pc_same s _, sameCellsBut_setCell_answer s pcCell_valid _ _ _, ⟨rfl, rfl, rfl⟩, rfl⟩

theorem setCell_linkCell_pc (s : State) (m : CpuMode) (v : Word) : (s.setCell (linkCell m) v).pc = s.pc :=
  RegFile.read_write_other _ _ _ _ (pcCell_ne_linkCell m) (linkCell_valid m)

/-- The whole effect of BL, in the model's own names: the link cell is never r15, so its write leaves the target in place. -/
theorem execBl_effect (f : BitVec 24) (s : State) :
    ∃ t, exec (.bl f) s = .next t ∧ t.pc = branchTarget s.pc f ∧ t.rf.read (linkCell s.mode) = linkValue t.pc ∧
      SameCellsBut [pcCell, linkCell s.mode] s t ∧ SameModes s t ∧ t.out = .quiet := by
  refine ⟨_, execBl_eq s f, ?target, ?link, ?frame, ⟨rfl, rfl, rfl⟩, rfl⟩
  case target => rw [answer_pc, setCell_linkCell_pc, setCell_pc_same]
  case link =>
    rw [answer_pc, setCell_linkCell_pc, setCell_pc_same]
    exact RegFile.read_write_same _ _ _ (linkCell_valid s.mode)
  case frame =>
    have hjump : SameCellsBut [pcCell] s (s.setCell pcCell (branchTarget s.pc f)) :=
      sameCellsBut_setCell_answer s pcCell_valid _ .none false
    exact hjump.trans (sameCellsBut_setCell_answer _ (linkCell_valid s.mode) _ _ _)

/-- Settles O10: the statement is `execB_effect` with the target and the cell written out. -/
theorem branchWritesTheTargetAndNothingElse : Obligations.BranchWritesTheTargetAndNothingElse := execB_effect

/-- Settles O11: `execBl_effect`, with the bank of the link cell read off for each mode. -/
theorem branchWithLinkWritesTheUpdatedPcPlus4 : Obligations.BranchWithLinkWritesTheUpdatedPcPlus4 := by
  intro f s
  obtain ⟨t, hexec, hpc, hlink, hcells, hmodes, hout⟩ := execBl_effect f s
  have linkIn {B : Bank} (hB : bankOf s.mode = B) : t.rf.read ⟨B, .r14⟩ = t.rf.read ⟨.su, .r15⟩ + 4 := hB ▸ hlink
  exact ⟨t, hexec, hpc, hlink, hcells, hmodes, hout,
    fun h => linkIn (h.elim (congrArg bankOf) (congrArg bankOf)),
    fun h => linkIn (congrArg bankOf h), fun h => linkIn (congrArg bankOf h), fun h => linkIn (congrArg bankOf h),
    fun h => linkIn (congrArg bankOf h), fun h => linkIn (congrArg bankOf h)⟩

end Sys2Proof.Machine
end

section
/-! Target and link as numbers modulo 2^32 (R145), and O12. -/

namespace Sys2Proof.Machine

theorem branchTarget_toNat (old : Word) (f : BitVec 24) :
    (branchTarget old f).toNat = (old.toNat + 8 + 4 * (signedOffset f).toNat) % 2 ^ 32 := by
  unfold branchTarget
  bv_omega

theorem linkValue_branchTarget_toNat (old : Word) (f : BitVec 24) :
    (linkValue (branchTarget old f)).toNat = (old.toNat + 12 + 4 * (signedOffset f).toNat) % 2 ^ 32 := by
  have htarget := branchTarget_toNat old f
  unfold linkValue
  bv_omega

/-- Four times a negated field is `2^32 - 4f`, up to the three further turns of 2^32 the sum drops. -/
theorem add_four_mul_signedOffset_mod_of_bit23_set {f : BitVec 24} (h : f.getLsbD 23 = true) (a : Nat) :
    (a + 4 * (signedOffset f).toNat) % 2 ^ 32 = (a + (2 ^ 32 - 4 * f.toNat)) % 2 ^ 32 := by
  have hoff := (offsetWithBit23SetIsNegated f).2 h
  omega

/-- Settles O12: both sums depend on the offset only through its number, which O8 gives for either value of bit 23. -/
theorem branchArithmeticWrapsAt32Bits : Obligations.BranchArithmeticWrapsAt32Bits := by
  intro f s
  obtain ⟨t, hexecB, hpcB, -⟩ := execB_effect f s
  obtain ⟨u, hexecBl, hpcBl, hlink, -⟩ := execBl_effect f s
  refine ⟨t, u, hexecB, hexecBl, ?_⟩
  rw [hlink, hpcBl, hpcB, branchTarget_toNat, linkValue_branchTarget_toNat]
  constructor
  · intro h
    rw [(offsetWithBit23SetIsNegated f).1 h]
    exact ⟨rfl, rfl, rfl⟩
  · intro h
    have hneg := add_four_mul_signedOffset_mod_of_bit23_set h
    exact ⟨hneg _, hneg _, hneg _⟩

end Sys2Proof.Machine
end

section
/-! What BX writes and what it leaves (R162, R164), and O15. -/

namespace Sys2Proof.Machine

/-- The whole effect of BX whose source register selects `c`, in the model's own names. -/
theorem execBx_effect {op n : Nat} {s : State} {c : Cell} (hop : op < 2) (hc : resolve s.mode n = some c) :
    ∃ t, exec (.bx op n) s = .next t ∧ t.pc = s.rf.read c ∧ SameCellsBut [pcCell] s t ∧ SameModes s t ∧ t.out = .quiet :=
  ⟨_, execBx_eq s hop hc, setCell_pc_same s _, sameCellsBut_setCell_answer s pcCell_valid _ _ _, ⟨rfl, rfl, rfl⟩, rfl⟩

/-- Settles O15: a register number below 16 selects a cell, and `execBx_effect` is what BX does with it. -/
theorem branchExchangeCopiesTheSourceRegister : Obligations.BranchExchangeCopiesTheSourceRegister := by
  intro op n s hop hn
  obtain ⟨c, hc, -⟩ := resolve_some_of_lt s.mode hn
  obtain ⟨t, heffect⟩ := execBx_effect hop hc
  exact ⟨c, t, hc, heffect⟩

end Sys2Proof.Machine
end

section
/-! The decoder and the encoder against each other (R51, R72 to R74, R81), and O5 to O7. -/

namespace Sys2Proof

open Machine

/-- Assembly undoes slicing: the four bytes are the digits, base 256, of the word. -/
theorem wordOfBytes_bytesOfWord (w : Word) :
    wordOfBytes (w.extractLsb' 0 8) (w.extractLsb' 8 8) (w.extractLsb' 16 8) (w.extractLsb' 24 8) = w := by
  have hw := w.isLt
  rw [BitVec.toNat_eq, wordOfBytes_toNat]
  simp only [BitVec.extractLsb'_toNat, Nat.shiftRight_eq_div_pow]
  omega

theorem decode_bytesOfWord (e : EntryPoint) (w : Word) : decode e (bytesOfWord w) = .ok (decodeWord e w) := by
  rw [bytesOfWord, decode_four, wordOfBytes_bytesOfWord]

theorem fieldOffset_toNat_eq_mod (w : Word) : (fieldOffset w).toNat = w.toNat % 2 ^ 24 := by
  rw [fieldOffset, BitVec.extractLsb'_toNat, Nat.shiftRight_zero]

theorem fieldOpcode_eq_decide (w : Word) : fieldOpcode w = decide (w.toNat / 2 ^ 24 % 2 = 1) := Nat.testBit_eq_decide_div_mod_eq

theorem fieldOperation_eq_div_mod (w : Word) : fieldOperation w = w.toNat / 2 ^ 4 % 2 := by
  rw [fieldOperation, BitVec.extractLsb'_toNat, Nat.shiftRight_eq_div_pow, Nat.pow_one]

theorem fieldSourceRegister_eq_mod (w : Word) : fieldSourceRegister w = w.toNat % 2 ^ 4 := by
  rw [fieldSourceRegister, BitVec.extractLsb'_toNat, Nat.shiftRight_zero]

/-- A mask of the low bits is a remainder. -/
theorem and_mask_toNat (w : Word) {n : Nat} (hn : n ≤ 32) : (w &&& BitVec.ofNat 32 (2 ^ n - 1)).toNat = w.toNat % 2 ^ n := by
  have hmask : 2 ^ n - 1 < 2 ^ 32 := Nat.sub_one_lt_of_le (Nat.two_pow_pos n) (Nat.pow_le_pow_right (by decide) hn)
  rw [BitVec.toNat_and, BitVec.toNat_ofNat, Nat.mod_eq_of_lt hmask, Nat.and_two_pow_sub_one_eq_mod]

/-- BRANCH examines bits 24:0 and nothing else: two words decode alike exactly when they agree there. -/
theorem decodeWord_branch_eq_iff (w w' : Word) :
    decodeWord .branch w = decodeWord .branch w' ↔ w &&& 0x01FFFFFF = w' &&& 0x01FFFFFF := by
  have hfields : decodeWord .branch w = decodeWord .branch w' ↔
      fieldOpcode w = fieldOpcode w' ∧ fieldOffset w = fieldOffset w' := by
    rw [decodeWord_branch, decodeWord_branch]
    cases fieldOpcode w <;> cases fieldOpcode w' <;> simp
  have hmask (v : Word) : (v &&& 0x01FFFFFF).toNat = v.toNat % 2 ^ 25 := and_mask_toNat v (n := 25) (by decide)
  rw [hfields, BitVec.toNat_eq, BitVec.toNat_eq, fieldOpcode_eq_decide, fieldOpcode_eq_decide, decide_eq_decide,
    fieldOffset_toNat_eq_mod, fieldOffset_toNat_eq_mod, hmask, hmask]
  omega

/-- BX examines bits 4:0 and nothing else. -/
theorem decodeWord_bx_eq_iff (w w' : Word) :
    decodeWord .bx w = decodeWord .bx w' ↔ w &&& 0x0000001F = w' &&& 0x0000001F := by
  have hmask (v : Word) : (v &&& 0x0000001F).toNat = v.toNat % 2 ^ 5 := and_mask_toNat v (n := 5) (by decide)
  rw [decodeWord_bx, decodeWord_bx, Instr.bx.injEq, BitVec.toNat_eq, fieldOperation_eq_div_mod, fieldOperation_eq_div_mod,
    fieldSourceRegister_eq_mod, fieldSourceRegister_eq_mod, hmask, hmask]
  omega

/-- The fields of an encoded instruction are its operands: R81's upper bits reach into none of them, but for the opcode bit of BL. -/
theorem decodeWord_encode {i : Instr} (hi : i.WellFormed) : decodeWord (entryPoint i) (encode i) = i := by
  cases i with
  | b f =>
    obtain ⟨hword, hf⟩ := Laws.TableRow.b f hi
    simp only [Laws.upperNumber, Laws.operandNumber, Laws.operandSpan] at hword hf
    refine (decodeWord_branch_eq_b_iff _ f).mpr ⟨?_, ?_⟩
    · rw [fieldOpcode_eq_decide, hword, decide_eq_false_iff_not]
      omega
    · rw [BitVec.toNat_eq, fieldOffset_toNat_eq_mod, hword]
      omega
  | bl f =>
    obtain ⟨hword, hf⟩ := Laws.TableRow.bl f hi
    simp only [Laws.upperNumber, Laws.operandNumber, Laws.operandSpan] at hword hf
    refine (decodeWord_branch_eq_bl_iff _ f).mpr ⟨?_, ?_⟩
    · rw [fieldOpcode_eq_decide, hword, decide_eq_true_eq]
      omega
    · rw [BitVec.toNat_eq, fieldOffset_toNat_eq_mod, hword]
      omega
  | bx operation n =>
    obtain ⟨hword, -⟩ := Laws.TableRow.bx operation n hi
    simp only [Laws.upperNumber, Laws.operandNumber] at hword
    simp only [Instr.WellFormed, Instr.wf, Bool.and_eq_true, decide_eq_true_eq] at hi
    obtain ⟨hop, hn⟩ := hi
    refine (decodeWord_bx_eq_bx_iff _ operation n).mpr ⟨?_, ?_⟩
    · rw [fieldOperation_eq_div_mod, hword]
      omega
    · rw [fieldSourceRegister_eq_mod, hword]
      omega

/-- Settles O5: the encoded bytes assemble to the encoded word, whose fields are the operands. -/
theorem decodeOfEncodeIsTheInstruction : Obligations.DecodeOfEncodeIsTheInstruction := fun _ hi =>
  (decode_bytesOfWord _ _).trans (congrArg Except.ok (decodeWord_encode hi))

theorem entryPoint_decodeWord (e : EntryPoint) (w : Word) : entryPoint (decodeWord e w) = e := by
  cases e with
  | branch => rw [decodeWord_branch]; cases fieldOpcode w <;> rfl
  | bx => rfl

/-- Encoding what was decoded gives a word that decodes alike. -/
theorem decodeWord_encode_decodeWord (e : EntryPoint) (w : Word) : decodeWord e (encode (decodeWord e w)) = decodeWord e w := by
  have h := decodeWord_encode (decodeWord_wf e w)
  rwa [entryPoint_decodeWord] at h

/-- Settles O6: words that decode alike agree on the examined bits. -/
theorem encodeOfDecodeKeepsTheExaminedBits : Obligations.EncodeOfDecodeKeepsTheExaminedBits := fun w =>
  ⟨fun e => ⟨decodeWord_wf e w, entryPoint_decodeWord e w⟩,
    (decodeWord_branch_eq_iff _ _).mp (decodeWord_encode_decodeWord .branch w),
    (decodeWord_bx_eq_iff _ _).mp (decodeWord_encode_decodeWord .bx w)⟩

/-- Settles O7: each buffer is decoded by computation. -/
theorem wordsOfTheSpecDecodeAsListed : Obligations.WordsOfTheSpecDecodeAsListed := ⟨rfl, rfl, rfl, rfl, rfl⟩

end Sys2Proof
end

section
/-! Which transactions complete (R9, R52, R208, R216), and O2, O4, O19, O20 and O45. -/

namespace Sys2Proof.Machine

theorem exec_completes {i : Instr} (hi : i.wf = true) (s : State) : ∃ t, exec i s = .next t := by
  obtain ⟨pc', h⟩ | ⟨f, -, h⟩ := exec_cases s hi <;> exact ⟨_, h⟩

theorem runInstruction_completes (e : EntryPoint) {buffer : List Byte} (h4 : buffer.length = 4) (s : State) :
    ∃ t, runInstruction e buffer s = .next t := by
  obtain ⟨-, w, hw⟩ | ⟨hne, -⟩ := decode_cases e buffer
  · rw [runInstruction_ok s hw]
    exact exec_completes (decodeWord_wf e w) s
  · exact absurd h4 hne

theorem step_presentAt (e : EntryPoint) (buffer : List Byte) (rest : List Transaction) (s : State) :
    step { s with pending := presentAt e buffer :: rest } = runInstruction e buffer { s with pending := rest } :=
  (step_cons _ rfl).trans (runTransaction_presentAt _ e buffer)

/-- Settles O2: the two cases of the decoder, each with the step it gives. -/
theorem onlyFourByteBuffersGetAStep : Obligations.OnlyFourByteBuffersGetAStep := by
  intro e buffer rest s
  rw [step_presentAt]
  refine ⟨fun h4 => ⟨?_, runInstruction_completes e h4 _⟩, fun hne => ⟨?_, runInstruction_badLength _ hne⟩⟩
  · obtain ⟨-, w, hw⟩ | ⟨hne, -⟩ := decode_cases e buffer
    · exact ⟨_, hw⟩
    · exact absurd h4 hne
  · obtain ⟨h4, -⟩ | ⟨-, hbad⟩ := decode_cases e buffer
    · exact absurd h4 hne
    · exact hbad

/-- Words that decode alike run alike, and every word runs. -/
theorem runInstruction_bytesOfWord_of_decodeWord_eq {e : EntryPoint} {w w' : Word} (h : decodeWord e w = decodeWord e w')
    (s : State) : ∃ t, runInstruction e (bytesOfWord w) s = .next t ∧ runInstruction e (bytesOfWord w') s = .next t := by
  obtain ⟨t, ht⟩ := exec_completes (decodeWord_wf e w) s
  rw [runInstruction_ok s (decode_bytesOfWord e w), runInstruction_ok s (decode_bytesOfWord e w'), ← h]
  exact ⟨t, ht, ht⟩

/-- Settles O4: words that agree on the examined bits decode alike. -/
theorem unexaminedBitsChangeNothing : Obligations.UnexaminedBitsChangeNothing := fun w w' s =>
  ⟨fun h => runInstruction_bytesOfWord_of_decodeWord_eq ((decodeWord_branch_eq_iff w w').mpr h) s,
    fun h => runInstruction_bytesOfWord_of_decodeWord_eq ((decodeWord_bx_eq_iff w w').mpr h) s⟩

/-- Settles O19: the step takes the transaction, which runs what its buffer decodes to. -/
theorem stepRunsTheDecodedInstruction : Obligations.StepRunsTheDecodedInstruction := by
  intro s e buffer rest i hpending hdecode _
  rw [step_cons s hpending, runTransaction_presentAt, runInstruction_ok _ hdecode]

/-- Under the driver's contract a transaction completes. -/
theorem runTransaction_completes {tr : Transaction} (hwf : tr.wf = true) (s : State) : ∃ t, runTransaction tr s = .next t := by
  cases tr with
  | branch buffer => exact runInstruction_completes .branch (of_decide_eq_true hwf) s
  | bx buffer => exact runInstruction_completes .bx (of_decide_eq_true hwf) s
  | _ => exact ⟨_, rfl⟩

/-- Outside the contract a transaction is refused, and it is a branch transaction with a buffer of another length. -/
theorem runTransaction_refused {tr : Transaction} (hwf : tr.wf = false) (s : State) :
    ∃ e buffer, tr = presentAt e buffer ∧ buffer.length ≠ 4 ∧
      runTransaction tr s = .refused (.bufferLength buffer.length) := by
  cases tr with
  | branch buffer =>
    have hne : buffer.length ≠ 4 := of_decide_eq_false hwf
    exact ⟨.branch, buffer, rfl, hne, runInstruction_badLength s hne⟩
  | bx buffer =>
    have hne : buffer.length ≠ 4 := of_decide_eq_false hwf
    exact ⟨.bx, buffer, rfl, hne, runInstruction_badLength s hne⟩
  | _ => cases hwf

/-- Everything a step can come to: no transaction, one that keeps the contract and completes, or one that does not and is refused. -/
theorem step_cases (s : State) :
    (s.pending = [] ∧ step s = .fault .noTransaction) ∨
    (∃ tr rest t, s.pending = tr :: rest ∧ tr.wf = true ∧ step s = .next t) ∨
    (∃ e buffer rest, s.pending = presentAt e buffer :: rest ∧ buffer.length ≠ 4 ∧
      step s = .refused (.bufferLength buffer.length)) := by
  cases hp : s.pending with
  | nil => exact .inl ⟨rfl, step_nil s hp⟩
  | cons tr rest =>
    rw [step_cons s hp]
    cases hwf : tr.wf with
    | true =>
      obtain ⟨t, ht⟩ := runTransaction_completes hwf { s with pending := rest }
      exact .inr (.inl ⟨tr, rest, t, rfl, hwf, ht⟩)
    | false =>
      obtain ⟨e, buffer, rfl, hne, hrefused⟩ := runTransaction_refused hwf { s with pending := rest }
      exact .inr (.inr ⟨e, buffer, rest, rfl, hne, hrefused⟩)

theorem presentAt_wf (e : EntryPoint) (buffer : List Byte) : (presentAt e buffer).wf = decide (buffer.length = 4) := by
  cases e <;> rfl

/-- Settles O20: the three ends of `step_cases` exclude each other. -/
theorem stepStopsOnlyOutsideTheContract : Obligations.StepStopsOnlyOutsideTheContract := by
  intro s
  obtain ⟨hp, hstep⟩ | ⟨tr, rest, t, hp, hwf, hstep⟩ | ⟨e, buffer, rest, hp, hne, hstep⟩ := step_cases s <;>
    rw [hstep, hp]
  · exact ⟨by simp, iff_of_true ⟨_, rfl⟩ rfl, nofun⟩
  · exact ⟨iff_of_true ⟨t, rfl⟩ ⟨tr, rest, rfl, hwf⟩, by simp, nofun⟩
  · refine ⟨by simp [presentAt_wf, hne], by simp, ?_⟩
    rintro r ⟨⟩
    exact ⟨e, buffer, rest, rfl, hne, rfl⟩

/-- No transaction reads or writes the queue. -/
theorem runTransaction_pending {tr : Transaction} {s t : State} (h : runTransaction tr s = .next t) : t.pending = s.pending := by
  obtain ⟨b, -, rfl⟩ | ⟨m, -, rfl⟩ | ⟨i, -, rfl⟩ | ⟨r, e, rfl⟩ | ⟨c, v, -, rfl, -⟩ | ⟨e, buffer, i, -, -, hi, hx⟩ :=
    runTransaction_cases h
  · rfl
  · rfl
  · rfl
  · rfl
  · rfl
  · obtain ⟨-, -, hpending, -⟩ := exec_frame hi hx
    exact hpending

/-- Settles O45: one completing step per transaction, by induction on the queue. -/
theorem runsUnderTheContractAreNeverStopped : Obligations.RunsUnderTheContractAreNeverStopped := by
  intro s hs
  induction hp : s.pending generalizing s with
  | nil => exact ⟨s, rfl, hp⟩
  | cons tr rest ih =>
    rw [State.contract, hp, List.all_cons, Bool.and_eq_true] at hs
    obtain ⟨htr, hrest⟩ := hs
    obtain ⟨u, hu⟩ := runTransaction_completes htr { s with pending := rest }
    have hpending : u.pending = rest := runTransaction_pending hu
    obtain ⟨t, hrun, hempty⟩ := ih u (by rw [State.contract, hpending]; exact hrest) hpending
    have hstep : Sys2Proof.core.step s = .next u := (step_cons s hp).trans hu
    refine ⟨t, ?_, hempty⟩
    simpa only [RunsTo, List.length_cons, Host.Core.run, hstep] using hrun

end Sys2Proof.Machine
end

section
/-! Access to one cell, through the bank, the register file and the CPU (R101 to R112, R118, R119), and O23 and O25 to O33. -/

namespace Sys2Proof.Machine

/-- Settles O23: the two cases of the bank-level access. -/
theorem bankAccessOutsideTheSlotSetIsInvalid : Obligations.BankAccessOutsideTheSlotSetIsInvalid := by
  intro s c v
  refine ⟨fun hc => ?_, fun hc => ⟨bankGet_invalid s hc, bankSet_invalid s v hc⟩⟩
  rw [bankSet_valid s v hc]
  exact ⟨bankGet_valid s hc, rfl, RegFile.read_write_same _ _ _ hc, sameCellsBut_setCell_answer s hc v .none false,
    rfl, rfl, rfl⟩

theorem rfGet_invalid (s : State) (m : CpuMode) {n : Nat} (hn : 16 ≤ n) : rfGet s m n = ⟨0, true⟩ := by
  rw [rfGet, resolve_invalid m hn]; rfl

theorem rfSet_invalid (s : State) (m : CpuMode) {n : Nat} (v : Word) (hn : 16 ≤ n) : rfSet s m n v = ⟨s, true⟩ := by
  rw [rfSet, resolve_invalid m hn]; rfl

theorem runRfSet_of_resolve {m : CpuMode} {n : Nat} {c : Cell} (hc : resolve m n = some c) (v : Word) (s : State) :
    runRfSet m n v s = (s.setCell c v).answer .none false := by
  rw [runRfSet, rfSet_of_resolve s v hc]; rfl

theorem runRfSet_invalid (m : CpuMode) {n : Nat} (hn : 16 ≤ n) (v : Word) (s : State) :
    runRfSet m n v s = s.answer .none true := by
  rw [runRfSet, rfSet_invalid s m v hn]; rfl

/-- A read replaces only the outputs. -/
theorem runRfGet_eq (m : CpuMode) (n : Nat) (s : State) :
    runRfGet m n s = s.answer (.word (rfGet s m n).value) (rfGet s m n).err := rfl

/-- Settles O25: a read replaces only the outputs, by the resolved cell's word or by the error form. -/
theorem registerReadAnswersTheResolvedCell : Obligations.RegisterReadAnswersTheResolvedCell := by
  intro m n s
  refine ⟨runRfGet m n s, rfl, rfl, ⟨rfl, rfl, rfl⟩, fun c hc => ?_, fun hn => ?_⟩
  · rw [runRfGet_eq, rfGet_of_resolve s hc, answer_out]
  · rw [runRfGet_eq, rfGet_invalid s m hn, answer_out]

/-- Settles O26: below 16 the multiplexer selects an existing cell, from 16 upwards none. -/
theorem registerWriteChangesExactlyTheResolvedCell : Obligations.RegisterWriteChangesExactlyTheResolvedCell := by
  intro m n v s
  refine ⟨runRfSet m n v s, rfl, ?_⟩
  by_cases hn : n < 16
  · obtain ⟨c, hc, hv⟩ := resolve_some_of_lt m hn
    rw [runRfSet_of_resolve hc]
    exact ⟨⟨rfl, rfl, rfl⟩,
      fun _ => ⟨c, hc, RegFile.read_write_same _ _ _ hv, sameCellsBut_setCell_answer s hv v _ _, rfl⟩,
      fun h16 => absurd hn (Nat.not_lt.mpr h16)⟩
  · rw [runRfSet_invalid m (Nat.not_lt.mp hn)]
    exact ⟨⟨rfl, rfl, rfl⟩, fun hlt => absurd hlt hn, fun _ => ⟨rfl, rfl⟩⟩

/-- Settles O27: the CPU's own access is defined as the register file's. -/
theorem cpuAccessUsesTheCurrentMode : Obligations.CpuAccessUsesTheCurrentMode := fun _ _ _ => ⟨rfl, rfl⟩

/-! ### Banking (R118) -/

/-- The bank in which a mode finds register `n`: the bank column of R103's table, for the numbers below 16. -/
def registerBank (m : CpuMode) (n : Nat) : Bank :=
  if n ≤ 7 ∨ n = 15 then .su else if 8 ≤ n ∧ n ≤ 12 then (if m = .fiq then .fiq else .su) else bankOf m

/-- A mode decides the bank of a register and not its slot. -/
theorem exists_slot_resolve_eq {n : Nat} (hn : n < 16) : ∃ k, ∀ m, resolve m n = some ⟨registerBank m n, k⟩ := by
  obtain ⟨k, hk⟩ : ∃ k, Slot.ofRegNum n = some k := by interval_cases n <;> exact ⟨_, rfl⟩
  refine ⟨k, fun m => ?_⟩
  rw [resolve, registerBank, hk]
  split_ifs with _ _ _ h13
  · rfl
  · rfl
  · rfl
  · rfl
  · exact absurd h13 (by omega)

/-- Where two modes find a register in one bank, the one reads what the other wrote. -/
theorem readsAfterWrite_of_registerBank_eq {m m' : CpuMode} {n : Nat} (hn : n < 16)
    (hbank : registerBank m n = registerBank m' n) (s : State) (v : Word) : ReadsAfterWrite s m n v m' n ⟨v, false⟩ := by
  obtain ⟨k, hk⟩ := exists_slot_resolve_eq hn
  have hc' : resolve m' n = some ⟨registerBank m n, k⟩ := hbank ▸ hk m'
  refine ⟨_, _, rfl, rfl, ?_⟩
  rw [runRfGet_eq, runRfSet_of_resolve (hk m), rfGet_of_resolve _ hc', answer_out, answer_rf, setCell_rf,
    RegFile.read_write_same _ _ _ (resolve_slot (hk m)).1]

/-- Where they find it in different banks, the one reads what was there before. -/
theorem readsAfterWrite_of_registerBank_ne {m m' : CpuMode} {n : Nat} (hn : n < 16)
    (hbank : registerBank m' n ≠ registerBank m n) (s : State) (v : Word) :
    ReadsAfterWrite s m n v m' n (rfGet s m' n) := by
  obtain ⟨k, hk⟩ := exists_slot_resolve_eq hn
  have hne : (⟨registerBank m' n, k⟩ : Cell) ≠ ⟨registerBank m n, k⟩ := fun h => hbank (congrArg Cell.bank h)
  refine ⟨_, _, rfl, rfl, ?_⟩
  rw [runRfGet_eq, runRfSet_of_resolve (hk m), rfGet_of_resolve _ (hk m'), rfGet_of_resolve s (hk m'), answer_out, answer_rf,
    setCell_rf, RegFile.read_write_other _ _ _ _ hne (resolve_slot (hk m)).1]

theorem readsAfterWrite_invalid (s : State) (m m' : CpuMode) {n : Nat} (hn : 16 ≤ n) (v : Word) :
    ReadsAfterWrite s m n v m' n ⟨0, true⟩ := by
  refine ⟨_, _, rfl, rfl, ?_⟩
  rw [runRfGet_eq, rfGet_invalid _ m' hn, answer_out]

theorem registerBank_shared (m : CpuMode) {n : Nat} (hn : n ≤ 7 ∨ n = 15) : registerBank m n = .su :=
  if_pos hn

theorem registerBank_eight_to_twelve (m : CpuMode) {n : Nat} (hn : 8 ≤ n ∧ n ≤ 12) :
    registerBank m n = if m = .fiq then .fiq else .su := by
  rw [registerBank, if_neg (by omega), if_pos hn]

theorem registerBank_thirteen_fourteen (m : CpuMode) {n : Nat} (hn : n = 13 ∨ n = 14) : registerBank m n = bankOf m := by
  rw [registerBank, if_neg (by omega), if_neg (by omega)]

/-- Settles O28: in each range of register numbers the modes' banks are compared. -/
theorem bankedRegistersAreIsolated : Obligations.BankedRegistersAreIsolated := by
  intro s m m' n v
  refine ⟨fun hn => ?_, fun hn hfiq => ?_, fun hn hfiq => ?_, fun hn hbank => ?_, fun hn hbank => ?_,
    fun hn => ⟨readsAfterWrite_invalid s m m' hn v, _, rfl, ?_⟩⟩
  · refine readsAfterWrite_of_registerBank_eq (by omega) ?_ s v
    rw [registerBank_shared m hn, registerBank_shared m' hn]
  · refine readsAfterWrite_of_registerBank_ne (by omega) ?_ s v
    rw [registerBank_eight_to_twelve m hn, registerBank_eight_to_twelve m' hn]
    by_cases h : m' = .fiq <;> simp [hfiq, h]
  · refine readsAfterWrite_of_registerBank_eq (by omega) ?_ s v
    simp only [registerBank_eight_to_twelve _ hn, hfiq]
  · refine readsAfterWrite_of_registerBank_ne (by omega) ?_ s v
    rw [registerBank_thirteen_fourteen m hn, registerBank_thirteen_fourteen m' hn]
    exact hbank.symm
  · refine readsAfterWrite_of_registerBank_eq (by omega) ?_ s v
    rw [registerBank_thirteen_fourteen m hn, registerBank_thirteen_fourteen m' hn, hbank]
  · rw [runRfSet_invalid m hn]
    exact ⟨rfl, rfl, rfl, rfl⟩

/-! ### Status words and modes -/

/-- Settles O29: both accesses are to the one CPSR cell, which exists. -/
theorem cpsrIsOneUninterpretedWord : Obligations.CpsrIsOneUninterpretedWord := fun v s =>
  ⟨⟨_, rfl, rfl, ⟨rfl, rfl, rfl⟩, rfl⟩,
    ⟨_, rfl, RegFile.read_write_same _ cpsrCell v rfl, sameCellsBut_setCell_answer s cpsrCell_valid v _ _, ⟨rfl, rfl, rfl⟩, rfl⟩⟩

theorem spsrCell_valid_eq_false_iff (m : CpuMode) : (spsrCell m).valid = false ↔ m = .usr ∨ m = .sys := by
  cases m <;> decide

theorem spsrCell_valid_eq_true_iff (m : CpuMode) : (spsrCell m).valid = true ↔ m ≠ .usr ∧ m ≠ .sys := by
  cases m <;> decide

theorem getSpsr_eq_bankGet (s : State) : getSpsr s = bankGet s (spsrCell s.mode) := by
  obtain ⟨hm, h⟩ | ⟨-, hv, h⟩ := getSpsr_cases s
  · rw [h, bankGet_invalid s ((spsrCell_valid_eq_false_iff _).mpr hm)]
  · rw [h, bankGet_valid s hv]

theorem setSpsr_eq_bankSet (s : State) (v : Word) : setSpsr s v = bankSet s (spsrCell s.mode) v := by
  obtain ⟨hm, h⟩ | ⟨-, hv, h⟩ := setSpsr_cases s v
  · rw [h, bankSet_invalid s v ((spsrCell_valid_eq_false_iff _).mpr hm)]
  · rw [h, bankSet_valid s v hv]

/-- Settles O31: under USR and SYS both sides are the error form, under the other modes the access to an existing cell. -/
theorem spsrAccessIsBankAccess : Obligations.SpsrAccessIsBankAccess := fun v s =>
  ⟨getSpsr_eq_bankGet s, setSpsr_eq_bankSet s v⟩

theorem runGetSpsr_eq (s : State) : runGetSpsr s = s.answer (.word (getSpsr s).value) (getSpsr s).err := rfl

theorem runSetSpsr_eq (v : Word) (s : State) : runSetSpsr v s = (setSpsr s v).state.answer .none (setSpsr s v).err := rfl

/-- Settles O30: the bank-level access to the SPSR's cell, by whether the mode has one. -/
theorem spsrAccessReachesTheCurrentBank : Obligations.SpsrAccessReachesTheCurrentBank := by
  intro v s
  refine ⟨runGetSpsr s, runSetSpsr v s, rfl, rfl, ?_⟩
  rw [runGetSpsr_eq, runSetSpsr_eq, getSpsr_eq_bankGet, setSpsr_eq_bankSet]
  cases hv : (spsrCell s.mode).valid with
  | true =>
    obtain ⟨husr, hsys⟩ := (spsrCell_valid_eq_true_iff _).mp hv
    rw [bankGet_valid s hv, bankSet_valid s v hv]
    exact ⟨rfl, ⟨rfl, rfl, rfl⟩, ⟨rfl, rfl, rfl⟩,
      fun _ _ => ⟨rfl, RegFile.read_write_same _ _ _ hv, sameCellsBut_setCell_answer s hv v _ _, rfl⟩,
      fun h => absurd h (not_or.mpr ⟨husr, hsys⟩)⟩
  | false =>
    have hm := (spsrCell_valid_eq_false_iff _).mp hv
    rw [bankGet_invalid s hv, bankSet_invalid s v hv]
    exact ⟨rfl, ⟨rfl, rfl, rfl⟩, ⟨rfl, rfl, rfl⟩,
      fun husr hsys => absurd hm (not_or.mpr ⟨husr, hsys⟩), fun _ => ⟨rfl, rfl, rfl⟩⟩

/-- Settles O33: each side is the record update the rule names. -/
theorem modeTransactionsReadOrWriteOneElement : Obligations.ModeTransactionsReadOrWriteOneElement := fun _ _ => ⟨rfl, rfl, rfl⟩

/-- Settles O32: register access reads the mode from the state, and BL's link cell is that of the new mode. -/
theorem modeSwitchSelectsTheNewBankAtOnce : Obligations.ModeSwitchSelectsTheNewBankAtOnce := by
  intro m s
  refine ⟨runSetMode m s, rfl, rfl, fun _ => rfl, fun n v => ?_, fun f => ?_⟩
  · rw [setReg_eq, runSetMode_mode]
    cases hc : resolve m n with
    | none =>
      have hn := (resolve_eq_none_iff m n).mp hc
      rw [rfSet_invalid _ m v hn, rfSet_invalid _ m v hn]
      exact ⟨rfl, rfl⟩
    | some c =>
      rw [rfSet_of_resolve _ v hc, rfSet_of_resolve _ v hc]
      exact ⟨rfl, rfl⟩
  · obtain ⟨u, hexec, -, -, hcells, -⟩ := execBl_effect f (runSetMode m s)
    exact ⟨u, hexec, hcells⟩

end Sys2Proof.Machine
end

section
/-! Two runs side by side (R28, R30 to R32, R108), and O40 to O42. What a relation between two states must keep is named once, in
`KeptByUpdates`; every transaction but the four that show a status word or a mode then keeps it, and each of the three statements adds
the getters that cannot tell its two states apart. -/

namespace Sys2Proof.Machine

/-- Related states agree in what decides a rule (the queue, the bank of the mode, the registers), and an update made to both keeps
them related. -/
structure KeptByUpdates (R : State → State → Prop) : Prop where
  pending_eq : ∀ {s t}, R s t → s.pending = t.pending
  bankOf_eq : ∀ {s t}, R s t → bankOf s.mode = bankOf t.mode
  read_eq : ∀ {s t} {c : Cell}, R s t → c.valid = true → c.slot ≠ .cpsr → c.slot ≠ .spsr → s.rf.read c = t.rf.read c
  withPending : ∀ {s t} q, R s t → R { s with pending := q } { t with pending := q }
  answer : ∀ {s t} r e, R s t → R (s.answer r e) (t.answer r e)
  setCell : ∀ {s t} {c : Cell} v, c.valid = true → R s t → R (s.setCell c v) (t.setCell c v)
  reset : ∀ {s t} b, R s t → R (runReset b s) (runReset b t)
  setMode : ∀ {s t} m, R s t → R (runSetMode m s) (runSetMode m t)
  setImode : ∀ {s t} i, R s t → R (runSetImode i s) (runSetImode i t)

theorem eq_fiq_iff (m : CpuMode) : m = .fiq ↔ bankOf m = .fiq := by
  cases m <;> decide

/-- The multiplexer asks a mode for its bank and for nothing else. -/
theorem resolve_eq_of_bankOf_eq {m m' : CpuMode} (h : bankOf m = bankOf m') (n : Nat) : resolve m n = resolve m' n := by
  have hfiq : m = .fiq ↔ m' = .fiq := by rw [eq_fiq_iff, eq_fiq_iff, h]
  simp only [resolve, hfiq, h]

/-- The transactions that show a status word or a mode. -/
def statusAndModeGetters : List Transaction := [.getCpsr, .getSpsr, .getMode, .getImode]

section

variable {R : State → State → Prop} (hR : KeptByUpdates R) {s t : State} (h : R s t)

include hR h

theorem KeptByUpdates.bankSet_answer (c : Cell) (v : Word) : R (bankSet s c v).answer (bankSet t c v).answer := by
  cases hc : c.valid with
  | true =>
    rw [bankSet_valid s v hc, bankSet_valid t v hc]
    exact hR.answer _ _ (hR.setCell v hc h)
  | false =>
    rw [bankSet_invalid s v hc, bankSet_invalid t v hc]
    exact hR.answer _ _ h

theorem KeptByUpdates.rfSet_answer (m : CpuMode) (n : Nat) (v : Word) : R (rfSet s m n v).answer (rfSet t m n v).answer := by
  unfold rfSet
  cases resolve m n with
  | none => exact hR.answer _ _ h
  | some c => exact hR.bankSet_answer h c v

theorem KeptByUpdates.answerRead {x y : ReadResult} (hxy : x = y) : R (s.answerRead x) (t.answerRead y) :=
  hxy ▸ hR.answer _ _ h

theorem KeptByUpdates.runGetMode (hmode : s.mode = t.mode) : R (runGetMode s) (runGetMode t) := by
  rw [runGetMode_eq, runGetMode_eq, hmode]
  exact hR.answer _ _ h

theorem KeptByUpdates.runGetImode (himode : s.imode = t.imode) : R (runGetImode s) (runGetImode t) := by
  rw [runGetImode_eq, runGetImode_eq, himode]
  exact hR.answer _ _ h

theorem KeptByUpdates.rfGet_eq (m : CpuMode) (n : Nat) : rfGet s m n = rfGet t m n := by
  cases hc : resolve m n with
  | none => rw [rfGet, rfGet, hc]
  | some c =>
    obtain ⟨hv, hcpsr, hspsr⟩ := resolve_slot hc
    rw [rfGet_of_resolve s hc, rfGet_of_resolve t hc, hR.read_eq h hv hcpsr hspsr]

theorem KeptByUpdates.resolve_eq (n : Nat) : resolve s.mode n = resolve t.mode n :=
  resolve_eq_of_bankOf_eq (hR.bankOf_eq h) n

theorem KeptByUpdates.getReg_eq (n : Nat) : getReg s n = getReg t n := by
  have hmode : rfGet t s.mode n = rfGet t t.mode n := by rw [rfGet, rfGet, hR.resolve_eq h]
  exact (hR.rfGet_eq h s.mode n).trans hmode

theorem KeptByUpdates.setReg_answer (n : Nat) (v : Word) : R (setReg s n v).answer (setReg t n v).answer := by
  have hmode : rfSet t s.mode n v = rfSet t t.mode n v := by rw [rfSet, rfSet, hR.resolve_eq h]
  rw [setReg_eq, setReg_eq, ← hmode]
  exact hR.rfSet_answer h s.mode n v

theorem KeptByUpdates.setSpsr_answer (v : Word) : R (setSpsr s v).answer (setSpsr t v).answer := by
  rw [setSpsr_eq_bankSet, setSpsr_eq_bankSet, spsrCell, spsrCell, ← hR.bankOf_eq h]
  exact hR.bankSet_answer h _ v

theorem KeptByUpdates.pc_eq : s.pc = t.pc := hR.read_eq h pcCell_valid nofun nofun

theorem KeptByUpdates.linkCell_eq : linkCell s.mode = linkCell t.mode := by
  rw [linkCell, linkCell, hR.bankOf_eq h]

theorem KeptByUpdates.exec_rel {i : Instr} (hi : i.wf = true) : OutcomeRel R (exec i s) (exec i t) := by
  cases i with
  | b f =>
    rw [execB_eq, execB_eq, ← hR.pc_eq h]
    exact hR.answer _ _ (hR.setCell _ pcCell_valid h)
  | bl f =>
    rw [execBl_eq, execBl_eq, ← hR.pc_eq h, ← hR.linkCell_eq h]
    exact hR.answer _ _ (hR.setCell _ (linkCell_valid _) (hR.setCell _ pcCell_valid h))
  | bx op n =>
    simp only [Instr.wf, Bool.and_eq_true, decide_eq_true_eq] at hi
    obtain ⟨hop, hn⟩ := hi
    obtain ⟨c, hc, -⟩ := resolve_some_of_lt s.mode hn
    obtain ⟨hv, hcpsr, hspsr⟩ := resolve_slot hc
    rw [execBx_eq s hop hc, execBx_eq t hop (hR.resolve_eq h n ▸ hc), hR.read_eq h hv hcpsr hspsr]
    exact hR.answer _ _ (hR.setCell _ pcCell_valid h)

theorem KeptByUpdates.runInstruction_rel (e : EntryPoint) (buffer : List Byte) :
    OutcomeRel R (runInstruction e buffer s) (runInstruction e buffer t) := by
  obtain ⟨-, w, hw⟩ | ⟨hne, -⟩ := decode_cases e buffer
  · rw [runInstruction_ok s hw, runInstruction_ok t hw]
    exact hR.exec_rel h (decodeWord_wf e w)
  · rw [runInstruction_badLength s hne, runInstruction_badLength t hne]
    rfl

theorem KeptByUpdates.runTransaction_rel (tr : Transaction)
    (hgetters : tr ∈ statusAndModeGetters → OutcomeRel R (runTransaction tr s) (runTransaction tr t)) :
    OutcomeRel R (runTransaction tr s) (runTransaction tr t) := by
  cases tr with
  | getCpsr | getSpsr | getMode | getImode => exact hgetters (by decide)
  | reset b => exact hR.reset b h
  | setMode m => exact hR.setMode m h
  | setImode i => exact hR.setImode i h
  | getReg n => exact hR.answerRead h (hR.getReg_eq h n)
  | rfGet m n => exact hR.answerRead h (hR.rfGet_eq h m n)
  | setReg n v => exact hR.setReg_answer h n v
  | rfSet m n v => exact hR.rfSet_answer h m n v
  | setCpsr v => exact hR.bankSet_answer h cpsrCell v
  | setSpsr v => exact hR.setSpsr_answer h v
  | branch buffer => exact hR.runInstruction_rel h .branch buffer
  | bx buffer => exact hR.runInstruction_rel h .bx buffer

/-- A step keeps the relation when the getter at the head of the queue, if there is one, does. -/
theorem KeptByUpdates.step_rel
    (hgetters : ∀ tr ∈ statusAndModeGetters, s.pending.head? = some tr →
      ∀ {u v}, R u v → OutcomeRel R (runTransaction tr u) (runTransaction tr v)) :
    OutcomeRel R (step s) (step t) := by
  have hpt := hR.pending_eq h
  cases hp : s.pending with
  | nil =>
    rw [step_nil s hp, step_nil t (hpt ▸ hp)]
    rfl
  | cons tr rest =>
    rw [step_cons s hp, step_cons t (hpt ▸ hp)]
    have hrest := hR.withPending rest h
    exact hR.runTransaction_rel hrest tr fun htr => hgetters tr htr (by rw [hp]; rfl) hrest

end


/-! ### USR against SYS -/

theorem bankOf_eq_su {m : CpuMode} (h : m = .usr ∨ m = .sys) : bankOf m = .su := by
  obtain rfl | rfl := h <;> rfl

theorem equalUpToUserSystem_keptByUpdates : KeptByUpdates EqualUpToUserSystem where
  pending_eq := fun ⟨_, _, hpending, _, _⟩ => hpending
  bankOf_eq := by
    rintro s t ⟨-, -, -, -, hmode | ⟨hs, ht⟩⟩
    · rw [hmode]
    · rw [bankOf_eq_su hs, bankOf_eq_su ht]
  read_eq := fun ⟨hrf, _⟩ _ _ _ => congrArg (RegFile.read · _) hrf
  withPending := fun _ ⟨hrf, himode, _, hout, hmode⟩ => ⟨hrf, himode, rfl, hout, hmode⟩
  answer := fun _ _ ⟨hrf, himode, hpending, _, hmode⟩ => ⟨hrf, himode, hpending, rfl, hmode⟩
  setCell := fun v _ ⟨hrf, himode, hpending, hout, hmode⟩ =>
    ⟨congrArg (RegFile.write · _ v) hrf, himode, hpending, hout, hmode⟩
  reset := fun _ ⟨_, _, hpending, _, _⟩ => ⟨rfl, rfl, hpending, rfl, .inl rfl⟩
  setMode := fun _ ⟨hrf, himode, hpending, _, _⟩ => ⟨hrf, himode, hpending, rfl, .inl rfl⟩
  setImode := fun _ ⟨hrf, _, hpending, _, hmode⟩ => ⟨hrf, rfl, hpending, rfl, hmode⟩

theorem getSpsr_eq_of_bankOf_eq {s t : State} (hrf : s.rf = t.rf) (hbank : bankOf s.mode = bankOf t.mode) :
    getSpsr s = getSpsr t := by
  rw [getSpsr_eq_bankGet, getSpsr_eq_bankGet, spsrCell, spsrCell, hbank, bankGet, bankGet, hrf]

/-- Settles O40: the status words are read by the bank, which USR and SYS share, and `imode` is equal. -/
theorem userAndSystemAreIndistinguishable : Obligations.UserAndSystemAreIndistinguishable := by
  intro s t h hne
  have hR := equalUpToUserSystem_keptByUpdates
  refine hR.step_rel h fun tr htr hhead u v huv => ?_
  have ⟨hrf, himode, _⟩ := huv
  simp only [statusAndModeGetters, List.mem_cons, List.not_mem_nil, or_false] at htr
  obtain rfl | rfl | rfl | rfl := htr
  · exact hR.answerRead huv (by rw [getCpsr_eq, getCpsr_eq, hrf])
  · exact hR.answerRead huv (getSpsr_eq_of_bankOf_eq hrf (hR.bankOf_eq huv))
  · exact absurd hhead hne
  · exact hR.runGetImode huv himode

/-! ### States equal but for `imode` -/

theorem equalButImode_keptByUpdates : KeptByUpdates EqualButImode where
  pending_eq := fun ⟨_, _, hpending, _⟩ => hpending
  bankOf_eq := fun ⟨_, hmode, _, _⟩ => congrArg bankOf hmode
  read_eq := fun ⟨hrf, _⟩ _ _ _ => congrArg (RegFile.read · _) hrf
  withPending := fun _ ⟨hrf, hmode, _, hout⟩ => ⟨hrf, hmode, rfl, hout⟩
  answer := fun _ _ ⟨hrf, hmode, hpending, _⟩ => ⟨hrf, hmode, hpending, rfl⟩
  setCell := fun v _ ⟨hrf, hmode, hpending, hout⟩ => ⟨congrArg (RegFile.write · _ v) hrf, hmode, hpending, hout⟩
  reset := fun _ ⟨_, _, hpending, _⟩ => ⟨rfl, rfl, hpending, rfl⟩
  setMode := fun _ ⟨hrf, _, hpending, _⟩ => ⟨hrf, rfl, hpending, rfl⟩
  setImode := fun _ ⟨hrf, hmode, hpending, _⟩ => ⟨hrf, hmode, hpending, rfl⟩

/-- Settles O41: the other three getters show cells and `mode`, which are equal. -/
theorem imodeIsSeenOnlyByGetImode : Obligations.ImodeIsSeenOnlyByGetImode := by
  intro s t h hne
  have hR := equalButImode_keptByUpdates
  refine hR.step_rel h fun tr htr hhead u v huv => ?_
  have ⟨hrf, hmode, _⟩ := huv
  simp only [statusAndModeGetters, List.mem_cons, List.not_mem_nil, or_false] at htr
  obtain rfl | rfl | rfl | rfl := htr
  · exact hR.answerRead huv (by rw [getCpsr_eq, getCpsr_eq, hrf])
  · exact hR.answerRead huv (getSpsr_eq_of_bankOf_eq hrf (hR.bankOf_eq huv))
  · exact hR.runGetMode huv hmode
  · exact absurd hhead hne

/-! ### States equal but for the status words -/

theorem equalButStatus_keptByUpdates : KeptByUpdates EqualButStatus where
  pending_eq := fun ⟨_, _, _, hpending, _⟩ => hpending
  bankOf_eq := fun ⟨_, hmode, _⟩ => congrArg bankOf hmode
  read_eq := fun ⟨hcells, _⟩ => hcells _
  withPending := fun _ ⟨hcells, hmode, himode, _, hout⟩ => ⟨hcells, hmode, himode, rfl, hout⟩
  answer := fun _ _ ⟨hcells, hmode, himode, hpending, _⟩ => ⟨hcells, hmode, himode, hpending, rfl⟩
  setCell := by
    rintro s t c v hc ⟨hcells, hsame⟩
    refine ⟨fun c' hv hcpsr hspsr => ?_, hsame⟩
    rw [setCell_rf, setCell_rf, RegFile.read_write _ _ _ _ hc, RegFile.read_write _ _ _ _ hc, hcells c' hv hcpsr hspsr]
  reset := fun _ ⟨_, _, _, hpending, _⟩ => ⟨fun _ _ _ _ => rfl, rfl, rfl, hpending, rfl⟩
  setMode := fun _ ⟨hcells, _, himode, hpending, _⟩ => ⟨hcells, rfl, himode, hpending, rfl⟩
  setImode := fun _ ⟨hcells, hmode, _, hpending, _⟩ => ⟨hcells, hmode, rfl, hpending, rfl⟩

/-- Settles O42: the other two getters show the modes, which are equal. -/
theorem statusWordsAreSeenOnlyByTheirReads : Obligations.StatusWordsAreSeenOnlyByTheirReads := by
  intro s t h hcpsr hspsr
  have hR := equalButStatus_keptByUpdates
  refine hR.step_rel h fun tr htr hhead u v huv => ?_
  have ⟨_, hmode, himode, _⟩ := huv
  simp only [statusAndModeGetters, List.mem_cons, List.not_mem_nil, or_false] at htr
  obtain rfl | rfl | rfl | rfl := htr
  · exact absurd hhead hcpsr
  · exact absurd hhead hspsr
  · exact hR.runGetMode huv hmode
  · exact hR.runGetImode huv himode

end Sys2Proof.Machine
end

section
/-! B, BL and BX once more (R54, R145, R148, R162 to R167), and O9, O13, O14 and O16 to O18. -/

namespace Sys2Proof.Machine

theorem bit23_eq_msb (f : BitVec 24) : f.getLsbD 23 = f.msb := (BitVec.msb_eq_getLsbD_last f).symm

theorem signExtend_toNat_of_bit23_set {f : BitVec 24} (h : f.getLsbD 23 = true) :
    (f.signExtend 32).toNat = f.toNat + (2 ^ 32 - 2 ^ 24) := by
  rw [BitVec.toNat_signExtend, ← bit23_eq_msb, h, BitVec.toNat_setWidth_of_le (by decide), if_pos rfl]

theorem signExtend_of_bit23_clear {f : BitVec 24} (h : f.getLsbD 23 = false) : f.signExtend 32 = f.setWidth 32 :=
  BitVec.signExtend_eq_setWidth_of_msb_false (by rw [← bit23_eq_msb, h])

/-- Settles O9: `2^32 - f` and `f + 2^32 - 2^24` are one number only for `f = 2^23`, and the former falls as `f` grows. -/
theorem negationIsNotSignExtension : Obligations.NegationIsNotSignExtension := by
  refine ⟨fun f h => ?_, fun f h => ?_, fun f g hf hg hlt => ?_⟩
  · have hneg := (offsetWithBit23SetIsNegated f).2 h
    have hext := signExtend_toNat_of_bit23_set h
    have hmin : (0x800000 : BitVec 24).toNat = 2 ^ 23 := rfl
    rw [BitVec.toNat_eq, BitVec.toNat_eq, hneg, hext, hmin]
    omega
  · rw [signedOffset_of_bit23_clear h, signExtend_of_bit23_clear h]
  · have hnegf := (offsetWithBit23SetIsNegated f).2 hf
    have hnegg := (offsetWithBit23SetIsNegated g).2 hg
    omega

/-- Settles O13: 8, 12, four times the offset and 2^32 are multiples of 4. -/
theorem branchCarriesTheLowTwoBitsThrough : Obligations.BranchCarriesTheLowTwoBitsThrough := by
  intro f s
  obtain ⟨t, hexecB, hpcB, -⟩ := execB_effect f s
  obtain ⟨u, hexecBl, hpcBl, hlink, -⟩ := execBl_effect f s
  refine ⟨t, u, hexecB, hexecBl, ?_⟩
  rw [hlink, hpcBl, hpcB, branchTarget_toNat, linkValue_branchTarget_toNat]
  omega

/-- Settles O14: the offsets of the five fields are literals. -/
theorem branchCornerCases : Obligations.BranchCornerCases := by
  intro old
  have h0 : signedOffset 0 = 0 := by decide
  have hmax : signedOffset 0x7FFFFF = 0x7FFFFF := by decide
  have hmin : signedOffset 0x800000 = 0 - 0x800000 := by decide
  have hFFFFFF : signedOffset 0xFFFFFF = 0 - 0xFFFFFF := by decide
  have hFFFFFE : signedOffset 0xFFFFFE = 0 - 0xFFFFFE := by decide
  simp only [branchTarget, linkValue, h0, hmax, hmin, hFFFFFF, hFFFFFE]
  refine ⟨?_, ?_, ?_, ?_, ?_, ?_, rfl⟩ <;> bv_omega

/-- `x[n]` of the resolved register. -/
theorem x_of_resolve {s : State} {n : Nat} {c : Cell} (hc : resolve s.mode n = some c) : s.x n = s.rf.read c := by
  rw [State.x, getReg_eq, rfGet_of_resolve s hc]

theorem execBx_eq_setX {op n : Nat} {s : State} (hop : op < 2) (hn : n < 16) :
    exec (.bx op n) s = .next ((s.setX 15 (s.x n)).answer .none false) := by
  obtain ⟨c, hc, -⟩ := resolve_some_of_lt s.mode hn
  rw [execBx_eq s hop hc, setX_fifteen, x_of_resolve hc]

/-- The arm no word reaches: BX with operation 3 would link as BL does (R163). -/
theorem execBx_three {n : Nat} {s : State} (hn : n < 16) :
    exec (.bx 3 n) s = .next (((s.setCell pcCell (s.x n)).setCell (linkCell s.mode) (linkValue (s.x n))).answer .none false) := by
  obtain ⟨c, hc, -⟩ := resolve_some_of_lt s.mode hn
  simp [exec, execBx, getReg_eq, rfGet_of_resolve s hc, x_of_resolve hc]

/-- Settles O16: an operation a word carries is below 2, and r15 is in no bank an r14. -/
theorem branchExchangeLinkArmIsDead : Obligations.BranchExchangeLinkArmIsDead := by
  refine ⟨fun w op n hw => ?_, fun op n s hop hn => ⟨execBx_eq_setX hop hn, fun B t ht => ?_⟩, fun n s hn => ?_⟩
  · have hwf := decodeWord_wf .bx w
    rw [hw, Instr.wf, Bool.and_eq_true, decide_eq_true_eq] at hwf
    omega
  · obtain ⟨c, hc, -⟩ := resolve_some_of_lt s.mode hn
    obtain ⟨u, hu, -, hcells, -⟩ := execBx_effect hop hc
    obtain rfl : u = t := Host.Outcome.next.inj (hu.symm.trans ht)
    exact hcells ⟨B, .r14⟩ (by cases B <;> rfl) (by simp [pcCell])
  · refine ⟨_, execBx_three hn, ?_, RegFile.read_write_same _ _ _ (linkCell_valid _), ?_⟩
    · rw [answer_pc, setCell_linkCell_pc, setCell_pc_same]
    · have hjump : SameCellsBut [pcCell] s (s.setCell pcCell (s.x n)) :=
        sameCellsBut_setCell_answer s pcCell_valid _ .none false
      exact hjump.trans (sameCellsBut_setCell_answer _ (linkCell_valid s.mode) _ _ _)

/-- Settles O17: r15 is rewritten with the value it holds. -/
theorem branchExchangeFromR15ChangesNothing : Obligations.BranchExchangeFromR15ChangesNothing := by
  intro op s hop
  rw [execBx_eq s hop (resolve_fifteen s.mode), State.setCell, RegFile.write_read]
  rfl

/-- Settles O18: an instruction completes, and what it leaves includes the modes, the queue and every cell but an r15 or an r14. -/
theorem instructionsWriteNoStatusAndRaiseNothing : Obligations.InstructionsWriteNoStatusAndRaiseNothing := by
  intro i s hi
  obtain ⟨t, ht⟩ := exec_completes hi s
  obtain ⟨hmode, himode, hpending, hout, hcells⟩ := exec_frame hi ht
  exact ⟨t, ht, hcells _ nofun nofun, fun B => hcells _ nofun nofun, ⟨hmode, himode, hpending⟩, by rw [hout]; rfl⟩

end Sys2Proof.Machine
end

section
/-! What each transaction raises and what each step can change (R27 to R31, R120, R181, R182), and O34 to O36, O38, O39, O43 and O44. -/

namespace Sys2Proof.Machine

theorem rfGet_err_iff (s : State) (m : CpuMode) (n : Nat) : (rfGet s m n).err = true ↔ 16 ≤ n := by
  obtain ⟨hn, h⟩ | ⟨hn, c, -, -, h⟩ := rfGet_cases s m n <;> rw [h]
  · exact iff_of_true rfl hn
  · exact iff_of_false nofun (Nat.not_le.mpr hn)

theorem rfSet_err_iff (s : State) (m : CpuMode) (n : Nat) (v : Word) : (rfSet s m n v).err = true ↔ 16 ≤ n := by
  obtain ⟨hn, h⟩ | ⟨hn, c, -, -, h⟩ := rfSet_cases s m n v <;> rw [h]
  · exact iff_of_true rfl hn
  · exact iff_of_false nofun (Nat.not_le.mpr hn)

theorem getSpsr_err_iff (s : State) : (getSpsr s).err = true ↔ s.mode = .usr ∨ s.mode = .sys := by
  obtain ⟨hm, h⟩ | ⟨hm, -, h⟩ := getSpsr_cases s <;> rw [h]
  · exact iff_of_true rfl hm
  · exact iff_of_false nofun (not_or.mpr hm)

theorem setSpsr_err_iff (s : State) (v : Word) : (setSpsr s v).err = true ↔ s.mode = .usr ∨ s.mode = .sys := by
  obtain ⟨hm, h⟩ | ⟨hm, -, h⟩ := setSpsr_cases s v <;> rw [h]
  · exact iff_of_true rfl hm
  · exact iff_of_false nofun (not_or.mpr hm)

theorem runInstruction_out {s t : State} {e : EntryPoint} {buffer : List Byte} (h : runInstruction e buffer s = .next t) :
    t.out = .quiet := by
  obtain ⟨i, -, hi, hx⟩ := runInstruction_next h
  obtain ⟨-, -, -, hout, -⟩ := exec_frame hi hx
  exact hout

/-- Settles O38: each rule's own `err`, transaction by transaction. -/
theorem errIsRaisedExactlyWhenListed : Obligations.ErrIsRaisedExactlyWhenListed := by
  intro tr s t h
  cases tr with
  | reset _ | setMode _ | setImode _ | getMode | getImode | getCpsr | setCpsr _ =>
    cases h
    exact iff_of_false nofun (by simp)
  | getReg n => cases h; exact (rfGet_err_iff s s.mode n).trans (by simp)
  | rfGet m n => cases h; exact (rfGet_err_iff s m n).trans (by simp)
  | setReg n v => cases h; exact (rfSet_err_iff s s.mode n v).trans (by simp)
  | rfSet m n v => cases h; exact (rfSet_err_iff s m n v).trans (by simp)
  | getSpsr => cases h; exact (getSpsr_err_iff s).trans (by simp)
  | setSpsr v => cases h; exact (setSpsr_err_iff s v).trans (by simp)
  | branch _ | bx _ => exact iff_of_false (by rw [runInstruction_out h]; nofun) (by simp)

/-! ### The outputs are zero on error -/

theorem PortOut.zeroOnErr_iff (o : PortOut) : o.zeroOnErr = true ↔ (o.err = true → o.result = .none ∨ o.result = .word 0) := by
  cases h : o.err <;> simp [PortOut.zeroOnErr, h]

theorem zeroOnErr_none (e : Bool) : (PortOut.mk .none e).zeroOnErr = true := (PortOut.zeroOnErr_iff _).mpr fun _ => .inl rfl

theorem zeroOnErr_rfGet (s : State) (m : CpuMode) (n : Nat) :
    (PortOut.mk (.word (rfGet s m n).value) (rfGet s m n).err).zeroOnErr = true := by
  obtain ⟨-, h⟩ | ⟨-, c, -, -, h⟩ := rfGet_cases s m n <;> rw [h] <;> rfl

theorem zeroOnErr_getSpsr (s : State) : (PortOut.mk (.word (getSpsr s).value) (getSpsr s).err).zeroOnErr = true := by
  obtain ⟨-, h⟩ | ⟨-, -, h⟩ := getSpsr_cases s <;> rw [h] <;> rfl

/-- A transaction's outputs are zero on error (R120), whatever they were before. -/
theorem runTransaction_zeroOnErr {tr : Transaction} {s t : State} (h : runTransaction tr s = .next t) :
    t.out.zeroOnErr = true := by
  cases tr with
  | reset _ | setMode _ | setImode _ | getMode | getImode | getCpsr | setCpsr _ => cases h; rfl
  | getReg n => cases h; exact zeroOnErr_rfGet s s.mode n
  | rfGet m n => cases h; exact zeroOnErr_rfGet s m n
  | setReg _ _ | rfSet _ _ _ | setSpsr _ => cases h; exact zeroOnErr_none _
  | getSpsr => cases h; exact zeroOnErr_getSpsr s
  | branch _ | bx _ => rw [runInstruction_out h]; rfl

/-- Settles O43: the queue only shrinks, and the outputs are those of the transaction that ran. -/
theorem everyStepKeepsInv : Obligations.EveryStepKeepsInv := by
  rintro s t ⟨hcontract, -⟩ h
  obtain ⟨tr, rest, hp, hrun⟩ := step_next h
  rw [State.contract, hp, List.all_cons, Bool.and_eq_true] at hcontract
  obtain ⟨-, hrest⟩ := hcontract
  refine ⟨?_, runTransaction_zeroOnErr hrun⟩
  rw [State.contract, runTransaction_pending hrun]
  exact hrest

/-- Settles O44: the queue is empty and `err` is 0. -/
theorem invHoldsAtReset : Obligations.InvHoldsAtReset := ⟨rfl, rfl⟩

/-- Settles O39: `err` comes only with an answer from the unchanged state. -/
theorem invalidRegisterAccessTakesNoTrap : Obligations.InvalidRegisterAccessTakesNoTrap := by
  intro s t h herr
  obtain ⟨tr, rest, hp, hrun⟩ := step_next h
  refine ⟨(PortOut.zeroOnErr_iff _).mp (runTransaction_zeroOnErr hrun) herr, ?_⟩
  obtain ⟨r, e, rfl⟩ := runTransaction_eq_answer_of_err hrun herr
  rw [hp]
  rfl

/-! ### What changes the modes, r15 and the status words -/

/-- Every way a transaction can come to change `mode` (R27). -/
theorem runTransaction_mode {tr : Transaction} {s t : State} (h : runTransaction tr s = .next t) :
    t.mode = s.mode ∨ (∃ b, tr = .reset b) ∨ ∃ m, tr = .setMode m := by
  obtain ⟨b, rfl, -⟩ | ⟨m, rfl, -⟩ | ⟨i, -, rfl⟩ | ⟨r, e, rfl⟩ | ⟨c, v, -, rfl, -⟩ | ⟨e, buffer, i, -, -, hi, hx⟩ :=
    runTransaction_cases h
  · exact .inr (.inl ⟨b, rfl⟩)
  · exact .inr (.inr ⟨m, rfl⟩)
  · exact .inl rfl
  · exact .inl rfl
  · exact .inl rfl
  · obtain ⟨hmode, -⟩ := exec_frame hi hx
    exact .inl hmode

/-- Every way a transaction can come to change `imode` (R28). -/
theorem runTransaction_imode {tr : Transaction} {s t : State} (h : runTransaction tr s = .next t) :
    t.imode = s.imode ∨ (∃ b, tr = .reset b) ∨ ∃ i, tr = .setImode i := by
  obtain ⟨b, rfl, -⟩ | ⟨m, -, rfl⟩ | ⟨i, rfl, -⟩ | ⟨r, e, rfl⟩ | ⟨c, v, -, rfl, -⟩ | ⟨e, buffer, i, -, -, hi, hx⟩ :=
    runTransaction_cases h
  · exact .inr (.inl ⟨b, rfl⟩)
  · exact .inl rfl
  · exact .inr (.inr ⟨i, rfl⟩)
  · exact .inl rfl
  · exact .inl rfl
  · obtain ⟨-, himode, -⟩ := exec_frame hi hx
    exact .inl himode

/-- Settles O34: a mode that differs after a step differs after the transaction the step took. -/
theorem onlyResetAndTheirSettersChangeTheModes : Obligations.OnlyResetAndTheirSettersChangeTheModes := by
  intro s t h
  obtain ⟨tr, rest, hp, hrun⟩ := step_next h
  exact ⟨fun hne => ⟨tr, rest, hp, (runTransaction_mode hrun).resolve_left hne⟩,
    fun hne => ⟨tr, rest, hp, (runTransaction_imode hrun).resolve_left hne⟩⟩

/-- A register number is that of the slot it selects. -/
theorem ofRegNum_of_resolve {m : CpuMode} {n : Nat} {c : Cell} (h : resolve m n = some c) : Slot.ofRegNum n = some c.slot := by
  unfold resolve at h
  split_ifs at h <;>
    (obtain ⟨k, hk, rfl⟩ := Option.map_eq_some_iff.mp h
     exact hk)

theorem eq_fifteen_of_ofRegNum {n : Nat} (h : Slot.ofRegNum n = some .r15) : n = 15 := by
  unfold Slot.ofRegNum at h
  split at h <;> cases h
  rfl

/-- Every way a transaction can come to change a cell: RESET, a write whose rule names the cell, or, for an r15 or an r14, an
instruction. -/
theorem runTransaction_read {tr : Transaction} {s t : State} (h : runTransaction tr s = .next t) (c : Cell) :
    t.rf.read c = s.rf.read c ∨ (∃ b, tr = .reset b) ∨
    (∃ n v, tr = .setReg n v ∧ resolve s.mode n = some c) ∨ (∃ m n v, tr = .rfSet m n v ∧ resolve m n = some c) ∨
    (c = cpsrCell ∧ ∃ v, tr = .setCpsr v) ∨ (c = spsrCell s.mode ∧ ∃ v, tr = .setSpsr v) ∨
    ((c.slot = .r15 ∨ c.slot = .r14) ∧ ((∃ buffer, tr = .branch buffer) ∨ ∃ buffer, tr = .bx buffer)) := by
  obtain ⟨b, rfl, -⟩ | ⟨m, -, rfl⟩ | ⟨i, -, rfl⟩ | ⟨r, e, rfl⟩ | ⟨c', v, hv, rfl, hname⟩ | ⟨e, buffer, i, rfl, -, hi, hx⟩ :=
    runTransaction_cases h
  · exact .inr (.inl ⟨b, rfl⟩)
  · exact .inl rfl
  · exact .inl rfl
  · exact .inl rfl
  · by_cases hcc : c = c'
    · subst hcc
      obtain ⟨-, -, ⟨n, rfl, hc⟩ | ⟨m, n, rfl, hc⟩⟩ | ⟨hc, rfl⟩ | ⟨hc, rfl⟩ := hname
      · exact .inr (.inr (.inl ⟨n, v, rfl, hc⟩))
      · exact .inr (.inr (.inr (.inl ⟨m, n, v, rfl, hc⟩)))
      · exact .inr (.inr (.inr (.inr (.inl ⟨hc, v, rfl⟩))))
      · exact .inr (.inr (.inr (.inr (.inr (.inl ⟨hc, v, rfl⟩)))))
    · exact .inl (RegFile.read_write_other _ _ _ _ hcc hv)
  · obtain ⟨-, -, -, -, hcells⟩ := exec_frame hi hx
    by_cases hslot : c.slot = .r15 ∨ c.slot = .r14
    · refine .inr (.inr (.inr (.inr (.inr (.inr ⟨hslot, ?_⟩)))))
      cases e with
      | branch => exact .inl ⟨buffer, rfl⟩
      | bx => exact .inr ⟨buffer, rfl⟩
    · rw [not_or] at hslot
      exact .inl (hcells c hslot.1 hslot.2)

/-- Settles O35: of the cells a transaction can change, r15 is not CPSR or an SPSR, and its only number is 15. -/
theorem onlyBranchesR15WritesAndResetMoveThePc : Obligations.OnlyBranchesR15WritesAndResetMoveThePc := by
  intro s t h hne
  obtain ⟨tr, rest, hp, hrun⟩ := step_next h
  refine ⟨tr, rest, hp, ?_⟩
  obtain ⟨b, rfl⟩ | ⟨n, v, rfl, hc⟩ | ⟨m, n, v, rfl, hc⟩ | ⟨hc, -⟩ | ⟨hc, -⟩ | ⟨-, hbranch⟩ :=
    (runTransaction_read hrun pcCell).resolve_left hne
  · exact .inl ⟨b, rfl⟩
  · obtain rfl := eq_fifteen_of_ofRegNum (ofRegNum_of_resolve hc)
    exact .inr (.inl ⟨v, rfl⟩)
  · obtain rfl := eq_fifteen_of_ofRegNum (ofRegNum_of_resolve hc)
    exact .inr (.inr (.inl ⟨m, v, rfl⟩))
  · exact absurd (congrArg Cell.slot hc) nofun
  · exact absurd (congrArg Cell.slot hc) nofun
  · exact .inr (.inr (.inr hbranch))

/-- Settles O36: no register number selects a status word, and no instruction writes one. -/
theorem onlyTheirSettersAndResetChangeTheStatusWords : Obligations.OnlyTheirSettersAndResetChangeTheStatusWords := by
  intro s t h
  obtain ⟨tr, rest, hp, hrun⟩ := step_next h
  refine ⟨fun hne => ⟨tr, rest, hp, ?_⟩, fun B hne => ⟨tr, rest, hp, ?_⟩⟩
  · obtain ⟨b, rfl⟩ | ⟨n, v, rfl, hc⟩ | ⟨m, n, v, rfl, hc⟩ | ⟨-, v, rfl⟩ | ⟨hc, -⟩ | ⟨hslot, -⟩ :=
      (runTransaction_read hrun cpsrCell).resolve_left hne
    · exact .inl ⟨b, rfl⟩
    · exact absurd rfl (resolve_slot hc).2.1
    · exact absurd rfl (resolve_slot hc).2.1
    · exact .inr ⟨v, rfl⟩
    · exact absurd (congrArg Cell.slot hc) nofun
    · exact absurd hslot (by decide)
  · obtain ⟨b, rfl⟩ | ⟨n, v, rfl, hc⟩ | ⟨m, n, v, rfl, hc⟩ | ⟨hc, -⟩ | ⟨hc, v, rfl⟩ | ⟨hslot, -⟩ :=
      (runTransaction_read hrun ⟨B, .spsr⟩).resolve_left hne
    · exact .inl ⟨b, rfl⟩
    · exact absurd rfl (resolve_slot hc).2.2
    · exact absurd rfl (resolve_slot hc).2.2
    · exact absurd (congrArg Cell.slot hc) nofun
    · exact .inr ⟨⟨v, rfl⟩, congrArg Cell.bank hc⟩
    · exact absurd hslot (by simp)

end Sys2Proof.Machine
end

section
/-! Reset and boot (R200 to R207), and O46 to O50. -/

namespace Sys2Proof.Machine

/-- Settles O46: the cells after RESET are the table's literals, and the rest of the state is what `runReset` names. -/
theorem resetWritesTheBootTable : Obligations.ResetWritesTheBootTable := by
  intro usingBIOS s
  refine ⟨runReset usingBIOS s, rfl, ?low, ?fiqLow, ?link, ?saved, ?direct, ?bios, rfl, rfl, rfl, rfl⟩ <;>
    simp only [runReset_rf]
  case low => cases usingBIOS <;> decide
  case fiqLow => cases usingBIOS <;> decide
  case link => intro B; cases usingBIOS <;> cases B <;> rfl
  case saved => intro B _; cases usingBIOS <;> cases B <;> rfl
  case direct => rintro rfl; exact ⟨rfl, rfl, rfl, rfl, rfl, rfl, rfl, rfl⟩
  case bios => rintro rfl; exact ⟨fun B => by cases B <;> rfl, rfl, rfl⟩

theorem runReset_eq_withPending (b : Bool) (s s' : State) : runReset b s' = { runReset b s with pending := s'.pending } := rfl

theorem resolve_thirteen (m : CpuMode) : resolve m 13 = some ⟨bankOf m, .r13⟩ := rfl

/-- Settles O47: `runReset` keeps only the queue of the earlier state. -/
theorem resetIsIndependentOfTheEarlierState : Obligations.ResetIsIndependentOfTheEarlierState := by
  intro b s s'
  refine ⟨runReset b s, rfl, congrArg Host.Outcome.next (runReset_eq_withPending b s s'), rfl, ?_, ?_⟩
  · rintro rfl m
    rw [rfGet_of_resolve _ (resolve_thirteen m)]
    cases m <;> rfl
  · rintro rfl
    refine ⟨fun m => ?_, rfl, rfl⟩
    rw [rfGet_of_resolve _ (resolve_thirteen m)]
    cases m <;> rfl

/-- Settles O48: RESET(false) writes every field but the queue, whatever the fields held. -/
theorem stateResetIsTheDirectBoot : Obligations.StateResetIsTheDirectBoot :=
  ⟨fun _ => rfl, fun _ => rfl, rfl, rfl, rfl, rfl⟩

/-- Settles O49: the two literals, field by field. -/
theorem resetModesAgreeWithTheCpsrLiterals : Obligations.ResetModesAgreeWithTheCpsrLiterals := by
  intro b
  cases b <;> decide

theorem romEntryField_append (b0 b1 b2 b3 : Byte) (rest : List Byte) :
    romEntryField ([b0, b1, b2, b3] ++ rest) = [b0, b1, b2, b3] := rfl

/-- Booting runs RESET(false) and then the instruction in the entry-point field. -/
theorem foldTransactions_bootTransactions {rom : List Byte} {i : Instr} {t : State} (s : State)
    (hdecode : decode .branch (romEntryField rom) = .ok i) (hexec : exec i (runReset false s) = .next t) :
    foldTransactions (bootTransactions rom) s = .next t := by
  have hbranch : runTransaction (.branch (romEntryField rom)) (runReset false s) = .next t :=
    (runInstruction_ok _ hdecode).trans hexec
  simp only [bootTransactions, foldTransactions, runTransaction] at hbranch ⊢
  rw [hbranch]

/-- Settles O50: the entry-point field is `B 0x2E`, run from the direct boot's r15. -/
theorem romEntryFieldSeedsTheFirstTarget : Obligations.RomEntryFieldSeedsTheFirstTarget := by
  intro rest s
  obtain ⟨t, hexec, hpc, hcells, -⟩ := execB_effect 0x2E (runReset false s)
  refine ⟨t, foldTransactions_bootTransactions s ?_ hexec, hpc.trans ?_, hcells⟩
  · rw [romEntryField_append]
    exact wordsOfTheSpecDecodeAsListed.1
  · show branchTarget 0x08000000 0x2E = 0x080000C0
    decide

end Sys2Proof.Machine
end
